-- ==== Sys2Proof/Word.lean ====
section
/-!
DEFINITION. The two bit-vector types of the engine: a register (R23: every register is 32 bits wide)
and a byte of the data space (R50). Both are abbreviations, so every BitVec lemma applies to them.
-/

namespace Sys2Proof

/-- One 32-bit register value, or one 32-bit data-space address (R23, R50). -/
abbrev Word := BitVec 32

/-- One byte of the data space, one raw sample or one 8-bit channel (R8, R50). -/
abbrev Byte := BitVec 8

end Sys2Proof
end

