-- ==== Sys2Proof/Config.lean ====
section
/-!
DEFINITION. What an implementation or a platform fixes (00_scope.md R8) and the free values.

The parameters the spec leaves OPEN are arguments of the model (R8). They are gathered in `Params`, which the
state carries unchanged (assumption 1), so a statement about every state is a statement about every value of
every parameter. The two opaque constants at the end are the free values: nothing can compute them.
-/

namespace Sys2Proof

/-- EDGE_RIGHT (R8, R114): what the edge pixel of a row is. -/
inductive EdgeRight where
  | draw        -- three free draws
  | reference   -- the kernel formula at column W
  deriving DecidableEq, Repr

/-- SP_LAST_UV (R8, R152): what the last chroma row of NV12 and NV21 holds. -/
inductive SpLastUv where
  | computed    -- the chroma computed at output row H - 2
  | copyPrev    -- a copy of the chroma row before it
  deriving DecidableEq, Repr

/-- GROUP_PAIRS (R8, R172): how many column pairs one engine step processes. -/
inductive GroupPairs where
  | one | eight | sixteen
  deriving DecidableEq, Repr

/-- A closed range of data-space addresses. -/
structure AddrRange where
  lo : Nat
  hi : Nat
  deriving DecidableEq, Repr

/-- The launch parameters that every instance shares. `MemAdmit` (R50) is held as plain data by its complement:
the ranges in which the platform does not admit an engine read, and those in which it does not admit an engine
write. Every predicate on the 2^32 addresses is such a list. -/
structure Params where
  edgeRight  : EdgeRight
  spLastUv   : SpLastUv
  groupPairs : GroupPairs
  noRead     : List AddrRange
  noWrite    : List AddrRange
  deriving DecidableEq, Repr

/-- `draw8()` (R10): an unconstrained 8-bit value. The argument is the draw's number, a plain counter of the
state, so two draws are two values with no relation between them. FREE VALUE (assumption 2). -/
opaque Config.draw8 : Nat → Byte

/-- The read data of a refused register read, which R180 leaves undefined. FREE VALUE (assumption 3). -/
opaque Config.refusedData : Nat → Word

end Sys2Proof
end

