-- ==== Sys2Proof/Syntax.lean ====
section
/-!
DEFINITION. The operations of spec/opcode_table.json, one constructor per mnemonic, and the encoded objects they
are decoded from (30_encoding.md). The table's 19 job rows `DMS.<fmt>` are selected by the job word CFG (R81);
its 20 register rows `RD.<reg>` and `WR.<reg>` by the transaction word TX (R82). Each constructor's first
argument is the engine instance it addresses (R20, R180).
-/

namespace Sys2Proof

/-- The four CFA patterns (R83). -/
inductive Pattern where
  | rggb | bggr | gbrg | grbg
  deriving DecidableEq, Repr

/-- The 18 supported destination formats (R84). -/
inductive Format where
  | alpha8 | argb8888 | argb4444 | argb1555 | rgba8888 | rgba4444 | rgba5551 | bgr888 | rgb888 | rgb565
  | yv12 | i420 | nv12 | nv21 | i422 | uyvy | yuy2 | i444
  deriving DecidableEq, Repr

/-- The operations of the engine. -/
inductive Instr where
  -- job operations (R168), operand PATTERN
  | dmsAlpha8 (inst : Nat) (pat : Pattern)
  | dmsArgb8888 (inst : Nat) (pat : Pattern)
  | dmsArgb4444 (inst : Nat) (pat : Pattern)
  | dmsArgb1555 (inst : Nat) (pat : Pattern)
  | dmsRgba8888 (inst : Nat) (pat : Pattern)
  | dmsRgba4444 (inst : Nat) (pat : Pattern)
  | dmsRgba5551 (inst : Nat) (pat : Pattern)
  | dmsBgr888 (inst : Nat) (pat : Pattern)
  | dmsRgb888 (inst : Nat) (pat : Pattern)
  | dmsRgb565 (inst : Nat) (pat : Pattern)
  | dmsYv12 (inst : Nat) (pat : Pattern)
  | dmsI420 (inst : Nat) (pat : Pattern)
  | dmsNv12 (inst : Nat) (pat : Pattern)
  | dmsNv21 (inst : Nat) (pat : Pattern)
  | dmsI422 (inst : Nat) (pat : Pattern)
  | dmsUyvy (inst : Nat) (pat : Pattern)
  | dmsYuy2 (inst : Nat) (pat : Pattern)
  | dmsI444 (inst : Nat) (pat : Pattern)
  /-- a job word whose FORMAT code is reserved (R85); the code is kept -/
  | dmsUnsupported (inst : Nat) (code : BitVec 5) (pat : Pattern)
  -- register reads (R181 to R199)
  | rdCtrl (inst : Nat)
  | rdStatus (inst : Nat)
  | rdResult (inst : Nat)
  | rdCfg (inst : Nat)
  | rdRawAddr (inst : Nat)
  | rdRawStride (inst : Nat)
  | rdWidth (inst : Nat)
  | rdHeight (inst : Nat)
  | rdDstAddr (inst : Nat)
  -- register writes (R182 to R198), operand WDATA
  | wrCtrl (inst : Nat) (wdata : Word)
  | wrStatus (inst : Nat) (wdata : Word)
  | wrResult (inst : Nat) (wdata : Word)
  | wrCfg (inst : Nat) (wdata : Word)
  | wrRawAddr (inst : Nat) (wdata : Word)
  | wrRawStride (inst : Nat) (wdata : Word)
  | wrWidth (inst : Nat) (wdata : Word)
  | wrHeight (inst : Nat) (wdata : Word)
  | wrDstAddr (inst : Nat) (wdata : Word)
  -- the reserved words of the window (R199, R200)
  | rdRsvd (inst : Nat) (offset : BitVec 8)
  | wrRsvd (inst : Nat) (offset : BitVec 8) (wdata : Word)
  deriving DecidableEq, Repr

/-- The two encoded objects (R80), each with the instance it is presented to. -/
inductive Encoded where
  /-- the job word, the value of CFG (R81) -/
  | job (inst : Nat) (cfg : Word)
  /-- a register transaction: the transaction word TX, the access size in bytes and the write data (R82) -/
  | mmio (inst : Nat) (tx : BitVec 9) (size : Nat) (wdata : Word)
  deriving DecidableEq, Repr

/-- Why a register transaction encodes no operation (R82, R90). -/
inductive DecodeError where
  | misaligned   -- OFFSET[1:0] is not 0b00
  | badSize      -- the access is not 32 bits wide
  deriving DecidableEq, Repr

end Sys2Proof
end

