-- ==== Sys2Proof/WellFormed.lean ====
section
/-!
DEFINITION. Which operations are well formed: the operand values that some encoded object gives (R84, R89).
Every operand of the other constructors is unrestricted (R87).
-/

namespace Sys2Proof

/-- The offsets 0x24 .. 0xFC with OFFSET[1:0] = 0b00 (R33, R89). -/
def reservedOffset (o : BitVec 8) : Bool := decide (0x24 ≤ o.toNat ∧ o.toNat % 4 = 0)

/-- The FORMAT codes 0x12 .. 0x1F (R84). -/
def reservedFormat (c : BitVec 5) : Bool := decide (0x12 ≤ c.toNat)

/-- An operation is well formed when its operands are ones the encodings can carry. -/
def Instr.wf : Instr → Bool
  | .dmsUnsupported _ c _ => reservedFormat c
  | .rdRsvd _ o => reservedOffset o
  | .wrRsvd _ o _ => reservedOffset o
  | .dmsAlpha8 _ _ | .dmsArgb8888 _ _ | .dmsArgb4444 _ _ | .dmsArgb1555 _ _ | .dmsRgba8888 _ _
  | .dmsRgba4444 _ _ | .dmsRgba5551 _ _ | .dmsBgr888 _ _ | .dmsRgb888 _ _ | .dmsRgb565 _ _ | .dmsYv12 _ _
  | .dmsI420 _ _ | .dmsNv12 _ _ | .dmsNv21 _ _ | .dmsI422 _ _ | .dmsUyvy _ _ | .dmsYuy2 _ _ | .dmsI444 _ _
  | .rdCtrl _ | .rdStatus _ | .rdResult _ | .rdCfg _ | .rdRawAddr _ | .rdRawStride _ | .rdWidth _ | .rdHeight _
  | .rdDstAddr _ | .wrCtrl _ _ | .wrStatus _ _ | .wrResult _ _ | .wrCfg _ _ | .wrRawAddr _ _ | .wrRawStride _ _
  | .wrWidth _ _ | .wrHeight _ _ | .wrDstAddr _ _ => true

end Sys2Proof
end

