-- ==== Sys2Proof/Decode.lean ====
section
/-!
DEFINITION. Decoding and encoding (30_encoding.md). `decodeJob` is total (R88); `decodeTx` refuses a misaligned
transaction word by name and gives every aligned one exactly one operation (R89, R90). The encoder is written
from the same tables.
-/

namespace Sys2Proof

/-! ## Code tables -/

/-- PATTERN codes (R83). -/
def Pattern.code : Pattern → BitVec 2
  | .rggb => 0
  | .bggr => 1
  | .gbrg => 2
  | .grbg => 3

/-- All four 2-bit codes are legal (R27, R83). -/
def patternOfCode (c : BitVec 2) : Pattern :=
  if c = 0 then .rggb else if c = 1 then .bggr else if c = 2 then .gbrg else .grbg

/-- FORMAT codes (R84). -/
def Format.code : Format → BitVec 5
  | .alpha8 => 0x00
  | .argb8888 => 0x01
  | .argb4444 => 0x02
  | .argb1555 => 0x03
  | .rgba8888 => 0x04
  | .rgba4444 => 0x05
  | .rgba5551 => 0x06
  | .bgr888 => 0x07
  | .rgb888 => 0x08
  | .rgb565 => 0x09
  | .yv12 => 0x0A
  | .i420 => 0x0B
  | .nv12 => 0x0C
  | .nv21 => 0x0D
  | .i422 => 0x0E
  | .uyvy => 0x0F
  | .yuy2 => 0x10
  | .i444 => 0x11

/-- FORMAT_TABLE of R88: the codes above 0x11 name no format. -/
def formatOfCode (c : BitVec 5) : Option Format :=
  match c.toNat with
  | 0x00 => some .alpha8
  | 0x01 => some .argb8888
  | 0x02 => some .argb4444
  | 0x03 => some .argb1555
  | 0x04 => some .rgba8888
  | 0x05 => some .rgba4444
  | 0x06 => some .rgba5551
  | 0x07 => some .bgr888
  | 0x08 => some .rgb888
  | 0x09 => some .rgb565
  | 0x0A => some .yv12
  | 0x0B => some .i420
  | 0x0C => some .nv12
  | 0x0D => some .nv21
  | 0x0E => some .i422
  | 0x0F => some .uyvy
  | 0x10 => some .yuy2
  | 0x11 => some .i444
  | _ => none

/-- The job operation of a format (R80, R84). -/
def jobInstr (n : Nat) (p : Pattern) : Format → Instr
  | .alpha8 => .dmsAlpha8 n p
  | .argb8888 => .dmsArgb8888 n p
  | .argb4444 => .dmsArgb4444 n p
  | .argb1555 => .dmsArgb1555 n p
  | .rgba8888 => .dmsRgba8888 n p
  | .rgba4444 => .dmsRgba4444 n p
  | .rgba5551 => .dmsRgba5551 n p
  | .bgr888 => .dmsBgr888 n p
  | .rgb888 => .dmsRgb888 n p
  | .rgb565 => .dmsRgb565 n p
  | .yv12 => .dmsYv12 n p
  | .i420 => .dmsI420 n p
  | .nv12 => .dmsNv12 n p
  | .nv21 => .dmsNv21 n p
  | .i422 => .dmsI422 n p
  | .uyvy => .dmsUyvy n p
  | .yuy2 => .dmsYuy2 n p
  | .i444 => .dmsI444 n p

/-! ## The job word -/

/-- The FORMAT field, bits 12:8 (R81). -/
def cfgFormat (cfg : Word) : BitVec 5 := cfg.extractLsb' 8 5

/-- The PATTERN field, bits 1:0 (R81). -/
def cfgPattern (cfg : Word) : Pattern := patternOfCode (cfg.extractLsb' 0 2)

/-- The job word with the two fields at their places and every reserved bit 0 (R81). -/
def packCfg (fmt : BitVec 5) (p : Pattern) : Word := (fmt.setWidth 32 <<< 8) ||| p.code.setWidth 32

/-- `decodeJob` (R88): any job word decodes to exactly one job operation; reserved bits are ignored. -/
def decodeJob (n : Nat) (cfg : Word) : Instr :=
  match formatOfCode (cfgFormat cfg) with
  | some fmt => jobInstr n (cfgPattern cfg) fmt
  | none => .dmsUnsupported n (cfgFormat cfg) (cfgPattern cfg)

/-! ## The register transaction -/

/-- The read operation at an aligned offset (R89). -/
def readAt (n : Nat) (o : BitVec 8) : Instr :=
  if o = 0x00 then .rdCtrl n
  else if o = 0x04 then .rdStatus n
  else if o = 0x08 then .rdResult n
  else if o = 0x0C then .rdCfg n
  else if o = 0x10 then .rdRawAddr n
  else if o = 0x14 then .rdRawStride n
  else if o = 0x18 then .rdWidth n
  else if o = 0x1C then .rdHeight n
  else if o = 0x20 then .rdDstAddr n
  else .rdRsvd n o

/-- The write operation at an aligned offset (R89). -/
def writeAt (n : Nat) (o : BitVec 8) (wdata : Word) : Instr :=
  if o = 0x00 then .wrCtrl n wdata
  else if o = 0x04 then .wrStatus n wdata
  else if o = 0x08 then .wrResult n wdata
  else if o = 0x0C then .wrCfg n wdata
  else if o = 0x10 then .wrRawAddr n wdata
  else if o = 0x14 then .wrRawStride n wdata
  else if o = 0x18 then .wrWidth n wdata
  else if o = 0x1C then .wrHeight n wdata
  else if o = 0x20 then .wrDstAddr n wdata
  else .wrRsvd n o wdata

/-- TX bit 8 is W, bits 7:0 are OFFSET (R82). -/
def decodeTx (n : Nat) (tx : BitVec 9) (wdata : Word) : Except DecodeError Instr :=
  if tx.extractLsb' 0 2 = 0 then
    if tx.getLsbD 8 then .ok (writeAt n (tx.extractLsb' 0 8) wdata)
    else .ok (readAt n (tx.extractLsb' 0 8))
  else .error .misaligned

/-- The decoder, total on every encoded object: SIZE must be 4 and OFFSET[1:0] must be 0b00 (R82, R88 to R90). -/
def decode : Encoded → Except DecodeError Instr
  | .job n cfg => .ok (decodeJob n cfg)
  | .mmio n tx size wdata => if size = 4 then decodeTx n tx wdata else .error .badSize

/-! ## The encoder -/

/-- `TX = (W << 8) | o` (R82). -/
def packTx (w : Bool) (o : BitVec 8) : BitVec 9 := BitVec.ofBool w ++ o

/-- An aligned 32-bit read of the register at offset `o`. -/
def encodeRead (n : Nat) (o : BitVec 8) : Encoded := .mmio n (packTx false o) 4 0

/-- An aligned 32-bit write of the register at offset `o`. -/
def encodeWrite (n : Nat) (o : BitVec 8) (wdata : Word) : Encoded := .mmio n (packTx true o) 4 wdata

/-- The encoded object of an operation (R81, R82, R84, R89). -/
def encode : Instr → Encoded
  | .dmsAlpha8 n p => .job n (packCfg 0x00 p)
  | .dmsArgb8888 n p => .job n (packCfg 0x01 p)
  | .dmsArgb4444 n p => .job n (packCfg 0x02 p)
  | .dmsArgb1555 n p => .job n (packCfg 0x03 p)
  | .dmsRgba8888 n p => .job n (packCfg 0x04 p)
  | .dmsRgba4444 n p => .job n (packCfg 0x05 p)
  | .dmsRgba5551 n p => .job n (packCfg 0x06 p)
  | .dmsBgr888 n p => .job n (packCfg 0x07 p)
  | .dmsRgb888 n p => .job n (packCfg 0x08 p)
  | .dmsRgb565 n p => .job n (packCfg 0x09 p)
  | .dmsYv12 n p => .job n (packCfg 0x0A p)
  | .dmsI420 n p => .job n (packCfg 0x0B p)
  | .dmsNv12 n p => .job n (packCfg 0x0C p)
  | .dmsNv21 n p => .job n (packCfg 0x0D p)
  | .dmsI422 n p => .job n (packCfg 0x0E p)
  | .dmsUyvy n p => .job n (packCfg 0x0F p)
  | .dmsYuy2 n p => .job n (packCfg 0x10 p)
  | .dmsI444 n p => .job n (packCfg 0x11 p)
  | .dmsUnsupported n c p => .job n (packCfg c p)
  | .rdCtrl n => encodeRead n 0x00
  | .rdStatus n => encodeRead n 0x04
  | .rdResult n => encodeRead n 0x08
  | .rdCfg n => encodeRead n 0x0C
  | .rdRawAddr n => encodeRead n 0x10
  | .rdRawStride n => encodeRead n 0x14
  | .rdWidth n => encodeRead n 0x18
  | .rdHeight n => encodeRead n 0x1C
  | .rdDstAddr n => encodeRead n 0x20
  | .wrCtrl n w => encodeWrite n 0x00 w
  | .wrStatus n w => encodeWrite n 0x04 w
  | .wrResult n w => encodeWrite n 0x08 w
  | .wrCfg n w => encodeWrite n 0x0C w
  | .wrRawAddr n w => encodeWrite n 0x10 w
  | .wrRawStride n w => encodeWrite n 0x14 w
  | .wrWidth n w => encodeWrite n 0x18 w
  | .wrHeight n w => encodeWrite n 0x1C w
  | .wrDstAddr n w => encodeWrite n 0x20 w
  | .rdRsvd n o => encodeRead n o
  | .wrRsvd n o w => encodeWrite n o w

/-! ## The opcode table's numbering (assumption 4) -/

/-- The encoded object that a word of spec/opcode_table.json stands for, on instance 0. A transaction is TX in one
16-bit word, then WDATA in the next 32 bits; a job word is 32 bits. A word of at most 16 bits is a transaction
word when it fits TX's nine bits, and otherwise the low half of a job word. -/
def tableObject (nbits w : Nat) : Encoded :=
  if 32 < nbits then .mmio 0 (BitVec.ofNat 9 w) 4 (BitVec.ofNat 32 (w / 2 ^ 16))
  else if nbits ≤ 16 ∧ w < 0x200 then .mmio 0 (BitVec.ofNat 9 w) 4 0
  else .job 0 (BitVec.ofNat 32 w)

/-- The operation the decoder reads from a word numbered as spec/opcode_table.json numbers it. -/
def decodeTableWord (nbits w : Nat) : Option Instr :=
  match decode (tableObject nbits w) with
  | .ok i => some i
  | .error _ => none

end Sys2Proof
end

