-- ==== Sys2Proof/Machine/State.lean ====
section
/-!
DEFINITION. The state of the machine as plain data: the register window and the internal state of every engine
instance (10_state.md), the data space (20_memory.md R50), the model's bookkeeping (60_exceptions.md R214,
R215), what the host last read, and the moves that are still to come.
-/

namespace Sys2Proof.Machine

/-- The data space (R50): address and byte pairs, addresses strictly rising, no entry equal to what an unlisted
address reads as (Memory.wf in Machine/Ops.lean). -/
abbrev Memory := List Host.Cell

/-- `phase` (R36). -/
inductive Phase where
  | idle | validate | rows | border | faulted
  deriving DecidableEq, Repr

/-- RESULT.CODE (R26, R86). The value 3 is never produced, so it is no constructor. -/
inductive ResultCode where
  | success | nullPointer | unsupportedFormat
  deriving DecidableEq, Repr

/-- `geom`, the TileGeometry of the current job, with the widths of R37. -/
structure TileGeometry where
  redRow  : BitVec 1
  blueRow : BitVec 1
  redCol  : BitVec 1
  blueCol : BitVec 1
  redIdx  : Word
  blueIdx : Word
  deriving DecidableEq, Repr

/-- The two footprints of a job as numbers (R57, R58): RawFP has `rows` rows of `cols` bytes, `stride` bytes
apart, from `rawBase`; DstFP is the `dstSize` bytes from `dstBase`. -/
structure Footprint where
  rawBase : Nat
  stride  : Nat
  rows    : Nat
  cols    : Nat
  dstBase : Nat
  dstSize : Nat
  deriving DecidableEq, Repr

/-- One engine instance: its register window (R23 to R33) and its internal state (R36 to R39). -/
structure Engine where
  /-- ENGINE_BASE of this instance (R23), a launch parameter: no step writes it -/
  base        : Word
  /-- CTRL.IRQ_EN (R24) -/
  irqEn       : Bool
  /-- STATUS.BUSY (R25) -/
  busy        : Bool
  /-- STATUS.DONE (R25) -/
  done        : Bool
  /-- RESULT.CODE (R26) -/
  code        : ResultCode
  /-- CFG.PATTERN (R27) -/
  pattern     : Pattern
  /-- CFG.FORMAT (R27); all 32 values are stored -/
  format      : BitVec 5
  /-- RAW_ADDR (R28) -/
  rawAddr     : Word
  /-- RAW_STRIDE (R29) -/
  rawStride   : Word
  /-- WIDTH (R30) -/
  width       : Word
  /-- HEIGHT (R31) -/
  height      : Word
  /-- DST_ADDR (R32) -/
  dstAddr     : Word
  /-- the job phase (R36) -/
  phase       : Phase
  /-- the tile geometry (R37) -/
  geom        : TileGeometry
  /-- the current output row (R38) -/
  k           : Word
  /-- the left column of the current pair (R38) -/
  c           : Word
  /-- the pattern the job reconstructs with (R39) -/
  physPattern : Pattern
  /-- the plane BORDER copies next (R169 item 4, R170: one step per plane, in the list's order; implied by the spec,
  assumption 6) -/
  plane       : Nat
  /-- a host write has met this job's footprints (R65, R239; the model's own field, assumption 8) -/
  raced       : Bool
  /-- the footprints of the jobs that were BUSY together with this one and overlap it (R70; the model's own field,
  assumption 8) -/
  clash       : List Footprint
  deriving DecidableEq, Repr

/-- `faults`, the set of recorded fault names (R40, R214), one flag a name; one set for the machine (assumption 11). -/
structure FaultSet where
  geometry : Bool   -- F_GEOMETRY
  stride   : Bool   -- F_STRIDE
  wrap     : Bool   -- F_WRAP
  overlap  : Bool   -- F_OVERLAP
  mem      : Bool   -- F_MEM
  deriving DecidableEq, Repr

/-- One access of the host to a register window (R180): its address is ENGINE_BASE(i) + OFFSET. -/
structure Transaction where
  write : Bool
  addr  : Word
  size  : Nat     -- bytes
  wdata : Word
  deriving DecidableEq, Repr

/-- What the agent HOST can do (R20). -/
inductive HostAction where
  | transact (t : Transaction)            -- a register transaction
  | readByte (addr : Word)                -- read one byte of the data space
  | writeByte (addr : Word) (v : Byte)    -- write one byte of the data space
  deriving DecidableEq, Repr

/-- One move of one agent (R20): the host, an engine instance, or the platform's reset of an instance (R230).
The data space is passive and has no move. -/
inductive Move where
  | host (a : HostAction)
  | engine (inst : Nat)
  | reset (inst : Nat)
  deriving DecidableEq, Repr

/-- The whole machine. -/
structure State where
  /-- the launch parameters (R8); no step writes them -/
  params   : Params
  /-- the instances 0 .. NUM_INSTANCES - 1 (R20, R223) -/
  insts    : List Engine
  /-- the data space (R50) -/
  mem      : Memory
  /-- the recorded fault names (R40) -/
  faults   : FaultSet
  /-- the mark Refused(MMIO_ACCESS) (R215) -/
  refused  : Bool
  /-- RDATA of the last register read (R82; the model's own field, assumption 15) -/
  rdata    : Word
  /-- the byte the host's last data-space read returned (R65; the model's own field, assumption 15) -/
  hostByte : Byte
  /-- how many free values have been taken (the model's own field, assumption 2) -/
  draws    : Nat
  /-- the moves the outside world has fixed, first to come first (the model's own field, assumption 5) -/
  agenda   : List Move
  deriving DecidableEq, Repr

/-- Why a step can stop. Neither is a model fault of R214: those are recorded in the state, and the machine
goes on. -/
inductive Fault where
  /-- raised by every operation and move that names an instance the platform does not have (R223); safe: the
  machine stops where the spec gives no such instance (assumption 9) -/
  | noInstance
  /-- raised by a register transaction whose address lies in no instance's window (R43, R180); safe: the spec
  gives the engines no other registers (assumption 9) -/
  | noWindow
  deriving DecidableEq, Repr

/-- Why a step can refuse. -/
inductive Refusal where
  /-- raised only by an arm of exec that has no meaning yet; safe. No arm is in that state. -/
  | notModelled (mnemonic : String)
  deriving DecidableEq, Repr

/-- The three outcomes of an operation of this machine. -/
abbrev Answer := Host.Outcome State Fault Refusal

/-- The geometry after reset: R44 leaves it unspecified; the model names zeros (assumption 6). -/
def TileGeometry.reset : TileGeometry :=
  { redRow := 0, blueRow := 0, redCol := 0, blueCol := 0, redIdx := 0, blueIdx := 0 }

/-- An instance after reset (R44, R230): every register 0, phase IDLE. What R44 leaves unspecified is zero
(assumption 6). -/
def Engine.reset (base : Word) : Engine :=
  { base := base, irqEn := false, busy := false, done := false, code := .success
    pattern := .rggb, format := 0, rawAddr := 0, rawStride := 0, width := 0, height := 0, dstAddr := 0
    phase := .idle, geom := TileGeometry.reset, k := 0, c := 0, physPattern := .rggb, plane := 0
    raced := false, clash := [] }

/-- No fault recorded (R40: the value at launch). -/
def FaultSet.empty : FaultSet :=
  { geometry := false, stride := false, wrap := false, overlap := false, mem := false }

/-- The parameters at launch: the defaults of R8 where it gives one, and a data space the platform admits wholly
(assumption 1). -/
def launchParams : Params :=
  { edgeRight := .draw, spLastUv := .computed, groupPairs := .one, noRead := [], noWrite := [] }

/-- The launch state (R232): every instance at its reset values, no fault, no refusal mark, no job in flight.
One instance, its window at address 0 (assumption 1); nothing pending (assumption 5). -/
def State.reset : State :=
  { params := launchParams, insts := [Engine.reset 0], mem := [], faults := FaultSet.empty, refused := false
    rdata := 0, hostByte := 0, draws := 0, agenda := [] }

end Sys2Proof.Machine
end

