-- ==== Sys2Proof/Machine/Operands.lean ====
section
/-!
DEFINITION. The operands of a job (30_encoding.md R87): the registers as naturals, the sizes that follow from
them, and the two footprints (20_memory.md R57, R58). All address arithmetic is on naturals.
-/

namespace Sys2Proof.Machine

/-- The job's register operands as naturals (R87): `A` RAW_ADDR, `P` RAW_STRIDE, `W` WIDTH, `H` HEIGHT, `D`
DST_ADDR. -/
structure Frame where
  A : Nat
  P : Nat
  W : Nat
  H : Nat
  D : Nat
  deriving DecidableEq, Repr

/-- Operand assembly (R87): every register is zero-extended and unsigned. -/
def Engine.frame (e : Engine) : Frame :=
  { A := e.rawAddr.toNat, P := e.rawStride.toNat, W := e.width.toNat, H := e.height.toNat, D := e.dstAddr.toNat }

/-- The job word, the value of CFG (R81, R187). -/
def Engine.cfgWord (e : Engine) : Word := packCfg e.format e.pattern

/-- GROUP_PAIRS as a number (R172). -/
def groupSize : GroupPairs → Nat
  | .one => 1
  | .eight => 8
  | .sixteen => 16

/-- How many bytes of each raw row a job may read: CMAX + 1 of R57. -/
def rawCols (p : Params) (f : Frame) : Nat :=
  match p.edgeRight with
  | .draw => f.W
  | .reference => f.W + 2

/-- size(FORMAT) of R58. -/
def formatSize (fmt : Format) (f : Frame) : Nat :=
  match fmt with
  | .alpha8 => f.W * f.H
  | .argb8888 | .rgba8888 => 4 * f.W * f.H
  | .argb4444 | .argb1555 | .rgba4444 | .rgba5551 | .rgb565 => 2 * f.W * f.H
  | .rgb888 | .bgr888 => 3 * f.W * f.H
  | .yv12 | .i420 => f.W * f.H + 2 * (f.W / 2) * (f.H / 2)
  | .nv12 | .nv21 => f.W * f.H + f.W * (f.H / 2)
  | .i422 => f.W * f.H + 2 * (f.W / 2) * f.H
  | .uyvy | .yuy2 => 2 * f.W * f.H
  | .i444 => 3 * f.W * f.H

/-- The footprints of a job (R57, R58). A reserved format code has no destination footprint (assumption 12). -/
def footprintOf (p : Params) (fmt : Option Format) (f : Frame) : Footprint :=
  { rawBase := f.A, stride := f.P, rows := f.H, cols := rawCols p f, dstBase := f.D
    dstSize := match fmt with
      | some g => formatSize g f
      | none => 0 }

/-- The footprints of the job an instance's registers describe. -/
def Engine.footprint (p : Params) (e : Engine) : Footprint :=
  footprintOf p (formatOfCode e.format) e.frame

/-- Is `a` in RawFP (R57)? -/
def Footprint.inRaw (fp : Footprint) (a : Nat) : Bool :=
  (List.range fp.rows).any fun r =>
    decide (fp.rawBase + r * fp.stride ≤ a ∧ a < fp.rawBase + r * fp.stride + fp.cols)

/-- Is `a` in DstFP (R58)? -/
def Footprint.inDst (fp : Footprint) (a : Nat) : Bool :=
  decide (fp.dstBase ≤ a ∧ a < fp.dstBase + fp.dstSize)

/-- Is `a` in one of the two footprints? -/
def Footprint.covers (fp : Footprint) (a : Nat) : Bool := fp.inRaw a || fp.inDst a

/-- Do the `n` bytes from `a` and the `m` bytes from `b` share a byte? -/
def spansMeet (a n b m : Nat) : Bool := decide (a < b + m ∧ b < a + n ∧ 0 < n ∧ 0 < m)

/-- Does DstFP of `fp` meet RawFP of `gp`? -/
def Footprint.dstMeetsRaw (fp gp : Footprint) : Bool :=
  (List.range gp.rows).any fun r => spansMeet fp.dstBase fp.dstSize (gp.rawBase + r * gp.stride) gp.cols

/-- Does DstFP of `fp` meet DstFP of `gp`? -/
def Footprint.dstMeetsDst (fp gp : Footprint) : Bool :=
  spansMeet fp.dstBase fp.dstSize gp.dstBase gp.dstSize

/-- R70: two jobs overlap when one's DstFP meets the other's RawFP or DstFP. -/
def Footprint.overlaps (fp gp : Footprint) : Bool :=
  fp.dstMeetsRaw gp || fp.dstMeetsDst gp || gp.dstMeetsRaw fp

end Sys2Proof.Machine
end

