-- ==== Sys2Proof/Machine/Flags.lean ====
section
/-!
DEFINITION. The flags of an instance, STATUS.BUSY and STATUS.DONE (10_state.md R34), the interrupt output they
drive (60_exceptions.md R219), the words in which the registers read (R181 to R187) and the validation
predicates (44_frame_driver.md R162).
-/

namespace Sys2Proof.Machine

/-- The 32-bit word of one flag at bit `i`. -/
def flagAt (b : Bool) (i : Nat) : Word := (BitVec.ofBool b).setWidth 32 <<< i

/-- RD.CTRL: IRQ_EN at bit 1, START reads 0 (R24, R181). -/
def Engine.ctrlWord (e : Engine) : Word := flagAt e.irqEn 1

/-- RD.STATUS: DONE at bit 1, BUSY at bit 0 (R25, R183). -/
def Engine.statusWord (e : Engine) : Word := flagAt e.done 1 ||| flagAt e.busy 0

/-- RESULT codes (R86). -/
def ResultCode.word : ResultCode → Word
  | .success => 0
  | .nullPointer => 1
  | .unsupportedFormat => 2

/-- The interrupt output IRQ(i), a level (R219). -/
def Engine.irq (e : Engine) : Bool := e.done && e.irqEn

/-- What an accepted START does to the flags, and the phase it enters (R160). RESULT keeps its value. -/
def Engine.started (e : Engine) : Engine := { e with done := false, busy := true, phase := .validate }

/-- What completion does to the flags, with the result code (R176). -/
def Engine.completed (code : ResultCode) (e : Engine) : Engine :=
  { e with code := code, busy := false, done := true, phase := .idle }

/-- Writing 1 to STATUS bit 1 clears DONE (R184). -/
def Engine.doneCleared (e : Engine) : Engine := { e with done := false }

/-- The union of two fault sets (R161: `faults ∪ F`). -/
def FaultSet.union (a b : FaultSet) : FaultSet :=
  { geometry := a.geometry || b.geometry, stride := a.stride || b.stride, wrap := a.wrap || b.wrap
    overlap := a.overlap || b.overlap, mem := a.mem || b.mem }

/-- The set with F_MEM alone. -/
def FaultSet.memOnly : FaultSet := { FaultSet.empty with mem := true }

/-- F_GEOMETRY holds of an odd or zero width or height (R162). -/
def geometryViolated (f : Frame) : Bool :=
  decide (f.W % 2 = 1 ∨ f.H % 2 = 1 ∨ f.W = 0 ∨ f.H = 0)

/-- F_STRIDE (R162). -/
def strideViolated (f : Frame) : Bool := decide (f.P < f.W)

/-- F_WRAP (R58, R162): a footprint passes address 2^32 - 1. -/
def wrapViolated (p : Params) (fmt : Format) (f : Frame) : Bool :=
  decide (2 ^ 32 < f.D + formatSize fmt f ∨ 2 ^ 32 < f.A + (f.H - 1) * f.P + rawCols p f)

/-- F_OVERLAP (R60, R162): RawFP and DstFP share a byte. -/
def overlapViolated (p : Params) (fmt : Format) (f : Frame) : Bool :=
  (footprintOf p (some fmt) f).dstMeetsRaw (footprintOf p (some fmt) f)

/-- The set F of VALIDATE (R161, R162): F_WRAP and F_OVERLAP are evaluated only when F_GEOMETRY does not hold. -/
def violations (p : Params) (fmt : Format) (f : Frame) : FaultSet :=
  { geometry := geometryViolated f
    stride := strideViolated f
    wrap := !geometryViolated f && wrapViolated p fmt f
    overlap := !geometryViolated f && overlapViolated p fmt f
    mem := false }

end Sys2Proof.Machine
end

