-- ==== Sys2Proof/Machine/Ops.lean ====
section
/-!
DEFINITION. The named operations over the data space and the instances: byte reads and writes of the memory, the
engine's access primitives (20_memory.md R50, R53, R54), the free values, register reads and writes
(45_host_interface.md), the START acceptance (R160), the model's counterpart of taking an exception, which is
recording model faults (60_exceptions.md R214), completion with a result code (R176) and reset (R230, R231).
-/

namespace Sys2Proof.Machine

/-! ## The data space -/

/-- What a byte reads as that no entry lists: R50 and R232 leave it to the launch; the model names 0x00
(assumption 7). -/
def Memory.unlisted : Byte := 0

/-- The canonical form: addresses below 2^32 (R50), strictly rising, no entry equal to `Memory.unlisted`. -/
abbrev Memory.wf (m : Memory) : Prop :=
  m.Pairwise (fun x y => x.1 < y.1) ∧ ∀ x ∈ m, x.2 ≠ Memory.unlisted ∧ x.1 < 2 ^ 32

/-- The byte at address `a` (R50). -/
def Memory.read (m : Memory) (a : Nat) : Byte :=
  match m with
  | [] => Memory.unlisted
  | (b, w) :: rest => if b = a then w else Memory.read rest a

/-- Puts `v` before `rest`, unless it is what an unlisted address reads as. -/
def Memory.entry (a : Nat) (v : Byte) (rest : Memory) : Memory :=
  if v = Memory.unlisted then rest else (a, v) :: rest

/-- The memory with byte `a` holding `v`, in canonical form. -/
def Memory.write (m : Memory) (a : Nat) (v : Byte) : Memory :=
  match m with
  | [] => Memory.entry a v []
  | (b, w) :: rest =>
    if a < b then Memory.entry a v ((b, w) :: rest)
    else if a = b then Memory.entry a v rest
    else (b, w) :: Memory.write rest a v

/-! ## Engine accesses -/

/-- Is `a` in the range? -/
def AddrRange.has (r : AddrRange) (a : Nat) : Bool := decide (r.lo ≤ a ∧ a ≤ r.hi)

/-- The test of MemRead (R53): the address exists and the platform admits an engine read of it. -/
def canRead (p : Params) (a : Nat) : Bool := decide (a < 2 ^ 32) && !p.noRead.any (AddrRange.has · a)

/-- The test of MemWrite (R54), byte by byte. -/
def canWrite (p : Params) (a : Nat) : Bool := decide (a < 2 ^ 32) && !p.noWrite.any (AddrRange.has · a)

/-- A sequence of MemWrites of one byte each (R54), in order: the memory left, and whether all were admitted.
The first one that is not admitted ends the sequence; those before it have been performed (R212). -/
def storeAll (p : Params) (m : Memory) : List Host.Cell → Memory × Bool
  | [] => (m, true)
  | (a, v) :: rest => if canWrite p a then storeAll p (m.write a v) rest else (m, false)

/-- The bytes of `MemWrite(a, n, v)`, least significant first (R51, R54). -/
def bytesLE (a : Nat) (n : Nat) (v : Nat) : List Host.Cell :=
  (List.range n).map fun i => (a + i, BitVec.ofNat 8 (v / 2 ^ (8 * i)))

/-- COPYROW (R170) from byte `i` on, `n` bytes left: read `src + i`, write `dst + i`; an access that is not
admitted ends the copy. -/
def copyBytes (p : Params) (src dst : Nat) (m : Memory) (i : Nat) : Nat → Memory × Bool
  | 0 => (m, true)
  | n + 1 =>
    if canRead p (src + i) && canWrite p (dst + i) then
      copyBytes p src dst (m.write (dst + i) (m.read (src + i))) (i + 1) n
    else (m, false)

/-- Every byte of the `n` bytes from `base` that `pick` selects takes a fresh `draw8()` (R10), the byte at
`base + i` the draw numbered `d + i`. Addresses above the data space have no byte. -/
def drawBytes (pick : Nat → Bool) (base d : Nat) (m : Memory) : Nat → Memory
  | 0 => m
  | n + 1 =>
    let m' := drawBytes pick base d m n
    if pick (base + n) && decide (base + n < 2 ^ 32) then m'.write (base + n) (Config.draw8 (d + n)) else m'

/-! ## Instances -/

/-- The state with instance `n` replaced. -/
def State.setInst (s : State) (n : Nat) (e : Engine) : State := { s with insts := s.insts.set n e }

/-- The state with new contents of the data space. -/
def State.setMem (s : State) (m : Memory) : State := { s with mem := m }

/-- The state in which `n` more free values have been taken. -/
def State.takeDraws (s : State) (n : Nat) : State := { s with draws := s.draws + n }

/-- The state in which the last register read returned `v`. -/
def State.setRdata (s : State) (v : Word) : State := { s with rdata := v }

/-- The state in which the host's last data-space read returned `v`. -/
def State.setHostByte (s : State) (v : Byte) : State := { s with hostByte := v }

/-- The state in which the faults of `f` are recorded besides those recorded before (R40: none is removed). -/
def State.addFaults (s : State) (f : FaultSet) : State := { s with faults := s.faults.union f }

/-- The state with the mark Refused(MMIO_ACCESS) set (R215). -/
def State.markRefused (s : State) : State := { s with refused := true }

/-- The state with the pending moves `l`. -/
def State.setAgenda (s : State) (l : List Move) : State := { s with agenda := l }

/-- An operation on instance `n`: a fault when the platform has no such instance (R223). -/
def withInst (n : Nat) (f : Engine → State) (s : State) : Answer :=
  match s.insts[n]? with
  | some e => .next (f e)
  | none => .fault .noInstance

/-- A register read (R180): RDATA takes the register's word; nothing else changes. -/
def readReg (n : Nat) (word : Engine → Word) (s : State) : Answer :=
  withInst n (fun e => s.setRdata (word e)) s

/-- A write of a register of instance `n` (R180). -/
def writeReg (n : Nat) (upd : Engine → Engine) (s : State) : Answer :=
  withInst n (fun e => s.setInst n (upd e)) s

/-- A write of a configuration register, ignored while BUSY (R42, R238). -/
def writeConfig (n : Nat) (upd : Engine → Engine) (s : State) : Answer :=
  writeReg n (fun e => if e.busy then e else upd e) s

/-! ## START, faults, completion, reset -/

/-- Does the BUSY job of `e` overlap the job with footprint `fp` (R70)? -/
def Engine.meets (p : Params) (fp : Footprint) (e : Engine) : Bool :=
  e.busy && fp.overlaps (e.footprint p)

/-- A BUSY instance whose job overlaps a job that is being started keeps the new job's footprint (R70). -/
def Engine.noteClash (p : Params) (fp : Footprint) (e : Engine) : Engine :=
  if e.meets p fp then { e with clash := fp :: e.clash } else e

/-- The START acceptance of R160 for instance `n`, whose registers are `e`. The overlaps of R70 are noted on both
sides, since both footprints are fixed from here on (R42). -/
def acceptStart (n : Nat) (e : Engine) (s : State) : State :=
  let fp := e.footprint s.params
  let others := (s.insts.filter (Engine.meets s.params fp)).map (Engine.footprint s.params)
  let e' := { e.started with raced := false, clash := others }
  { s with insts := (s.insts.map (Engine.noteClash s.params fp)).set n e' }

/-- `raise Fault(f)` (R214), for every f of a set at once (R161): the faults are recorded and the instance is
FAULTED; its BUSY stays 1 and its DONE stays 0. -/
def raiseFaults (n : Nat) (f : FaultSet) (e : Engine) (s : State) : State :=
  (s.setInst n { e with phase := .faulted }).addFaults f

/-- The overlaps that open bytes at a completion with `code`: R70 speaks of the bytes a job wrote, and a job that
ends with an error code has written none (R59, R175; assumption 8). -/
def Engine.openClash (code : ResultCode) (e : Engine) : List Footprint :=
  match code with
  | .success => e.clash
  | .nullPointer | .unsupportedFormat => []

/-- Which bytes of DstFP hold draws when the job completes with `code`: all of them after a host race, whatever the
code (R65, R239), else those in the footprint of a job that overlapped it (R70). -/
def Engine.openByte (code : ResultCode) (e : Engine) (a : Nat) : Bool :=
  e.raced || (e.openClash code).any (Footprint.covers · a)

/-- The free bytes of a job that completes with `code` (R65, R70); nothing when there is none to draw. -/
def settleBytes (code : ResultCode) (fp : Footprint) (e : Engine) (s : State) : State :=
  if e.raced || !(e.openClash code).isEmpty then
    (s.setMem (drawBytes (e.openByte code) fp.dstBase s.draws s.mem fp.dstSize)).takeDraws fp.dstSize
  else s

/-- `complete(code)` (R176) of instance `n`, whose job has the format `fmt`: the bytes a race or an overlap left open
take their draws, and the marks of R65 and R70 end with the job. -/
def complete (code : ResultCode) (fmt : Option Format) (n : Nat) (e : Engine) (s : State) : State :=
  (settleBytes code (footprintOf s.params fmt e.frame) e s).setInst n
    { e.completed code with raced := false, clash := [] }

/-- Reset of instance `n` (R230): every piece of its state takes its reset value; the data space, the faults and
the refusal mark stay. If a job is in flight, every byte of its DstFP is a draw (R231; DEDUCED for
a job that has not passed VALIDATE, assumption 10). R231 also says that RawFP is unchanged; where the two footprints
share a byte, the shared byte is a draw (DESIGN CHOICE, assumption 10). -/
def resetInst (n : Nat) (e : Engine) (s : State) : State :=
  let fp := e.footprint s.params
  let t := s.setInst n (Engine.reset e.base)
  if e.busy then (t.setMem (drawBytes (fun _ => true) fp.dstBase s.draws s.mem fp.dstSize)).takeDraws fp.dstSize
  else t

end Sys2Proof.Machine
end

