-- ==== Sys2Proof/Machine/Tile.lean ====
section
/-!
DEFINITION. The CFA tile geometry model (40_tile_model.md): DERIVE_TILE, SWAP_RB and ADVANCE.
-/

namespace Sys2Proof.Machine

/-- The fixed parities of one pattern. -/
structure Parities where
  redRow  : BitVec 1
  redCol  : BitVec 1
  blueRow : BitVec 1
  blueCol : BitVec 1
  deriving DecidableEq, Repr

/-- `patternTable` (R83, R100). -/
def patternTable : Pattern → Parities
  | .rggb => { redRow := 0, redCol := 0, blueRow := 1, blueCol := 1 }
  | .bggr => { redRow := 1, redCol := 1, blueRow := 0, blueCol := 0 }
  | .gbrg => { redRow := 1, redCol := 0, blueRow := 0, blueCol := 1 }
  | .grbg => { redRow := 0, redCol := 1, blueRow := 1, blueCol := 0 }

/-- `swapRB`, the last column of the table of R83. -/
def swapRB : Pattern → Pattern
  | .rggb => .bggr
  | .bggr => .rggb
  | .gbrg => .grbg
  | .grbg => .gbrg

/-- SWAP_RB (R102): only BGR888 reconstructs with the swapped pattern. -/
def physPatternOf (fmt : Format) (p : Pattern) : Pattern := if fmt = .bgr888 then swapRB p else p

/-- DERIVE_TILE (R101). -/
def deriveTile (p : Pattern) : TileGeometry :=
  let q := patternTable p
  { redRow := q.redRow, blueRow := q.blueRow, redCol := q.redCol, blueCol := q.blueCol
    redIdx := q.redRow.setWidth 32, blueIdx := q.blueRow.setWidth 32 }

/-- ADVANCE(k) (R103, as 90_conflicts.md C1 settles it: `k` is the row about to be processed). -/
def advance (k : Nat) (g : TileGeometry) : TileGeometry :=
  { g with
    redIdx := if (k + g.blueRow.toNat) % 2 = 0 then g.redIdx + 2 else g.redIdx
    blueIdx := if (k + g.redRow.toNat) % 2 = 0 then g.blueIdx + 2 else g.blueIdx }

/-- The geometry in which output row `k` is reconstructed: DERIVE_TILE, then ADVANCE(1) .. ADVANCE(k) (R164). -/
def rowGeometry (p : Pattern) : Nat → TileGeometry
  | 0 => deriveTile p
  | k + 1 => advance (k + 1) (rowGeometry p k)

end Sys2Proof.Machine
end

