-- ==== Sys2Proof/Machine/Kernel.lean ====
section
/-!
DEFINITION. The demosaic kernel (41_demosaic_kernel.md): SAMPLE, ROUND_AVG, CELL, EDGE and RECONSTRUCT.
-/

namespace Sys2Proof.Machine

/-- One reconstructed (R,G,B) triple. -/
structure Triple where
  r : Byte
  g : Byte
  b : Byte
  deriving DecidableEq, Repr

/-- The address of raw sample (r, c) (R110). -/
def sampleAddr (f : Frame) (r c : Nat) : Nat := f.A + r * f.P + c

/-- One raw read (R53, R110): the byte the data space holds, or `draw8()` where another job's DstFP overlaps this
job's raw frame (R70). `d` numbers the draw. -/
def rawByte (clash : List Footprint) (m : Memory) (d a : Nat) : Byte :=
  if clash.any (Footprint.inDst · a) then Config.draw8 d else m.read a

/-- ROUND_AVG (R111), with a 9-bit sum. -/
def roundAverage (a b : Byte) : Byte := BitVec.ofNat 8 ((a.toNat + b.toNat + 1) / 2)

/-- The addresses CELL reads at column `j`, in its order: R, B and the two greens (R112). -/
def cellReads (f : Frame) (g : TileGeometry) (j : Nat) : List Nat :=
  [ sampleAddr f g.redIdx.toNat (j + g.redCol.toNat), sampleAddr f g.blueIdx.toNat (j + g.blueCol.toNat),
    sampleAddr f g.redIdx.toNat (j + g.blueCol.toNat), sampleAddr f g.blueIdx.toNat (j + g.redCol.toNat) ]

/-- CELL (R112) at column `j`. `src i a` is what the pair's `i`-th raw read finds at address `a`; this cell's
reads are numbered from `i`. -/
def cell (src : Nat → Nat → Byte) (f : Frame) (g : TileGeometry) (i j : Nat) : Triple :=
  { r := src i (sampleAddr f g.redIdx.toNat (j + g.redCol.toNat))
    b := src (i + 1) (sampleAddr f g.blueIdx.toNat (j + g.blueCol.toNat))
    g := roundAverage (src (i + 2) (sampleAddr f g.redIdx.toNat (j + g.blueCol.toNat)))
      (src (i + 3) (sampleAddr f g.blueIdx.toNat (j + g.redCol.toNat))) }

/-- EDGE (R114): three draws, or the CELL formula at column W. -/
def edgeCell (p : Params) (src : Nat → Nat → Byte) (d : Nat) (f : Frame) (g : TileGeometry) : Triple :=
  match p.edgeRight with
  | .draw => { r := Config.draw8 d, g := Config.draw8 (d + 1), b := Config.draw8 (d + 2) }
  | .reference => cell src f g 4 f.W

/-- The triple of output pixel (k, c) (R113): `left`. -/
def leftTriple (src : Nat → Nat → Byte) (f : Frame) (g : TileGeometry) (c : Nat) : Triple := cell src f g 0 c

/-- The triple of output pixel (k, c + 1) (R113): `right`, one period on, or the edge triple when `c` is W - 2. -/
def rightTriple (p : Params) (src : Nat → Nat → Byte) (d : Nat) (f : Frame) (g : TileGeometry) (c : Nat) : Triple :=
  if c + 4 ≤ f.W then cell src f g 4 (c + 2) else edgeCell p src d f g

/-- The raw bytes RECONSTRUCT reads for the pair at column `c`, in order (R113, R114). -/
def pairReads (p : Params) (f : Frame) (g : TileGeometry) (c : Nat) : List Nat :=
  cellReads f g c ++
    (if c + 4 ≤ f.W then cellReads f g (c + 2)
     else match p.edgeRight with
       | .draw => []
       | .reference => cellReads f g f.W)

/-- How many draws one pair step reserves: eight raw reads (R70) and the three channels of an edge triple (R114). -/
def drawsPerPair : Nat := 11

end Sys2Proof.Machine
end

