-- ==== Sys2Proof/Machine/RgbSink.lean ====
section
/-!
DEFINITION. The RGB-family pixel sink (42_rgb_sink.md): one packer and one sink per format. A sink gives the bytes
it stores, in order, for output pixels (k, c) and (k, c + 1).
-/

namespace Sys2Proof.Machine

/-- The top `n` bits of a channel (R120): `ch >> (8 - n)`. -/
def narrow (ch : Byte) (n : Nat) : Nat := ch.toNat >>> (8 - n)

/-- `pix(k, x)` of R120 for `bpp` bytes a pixel. -/
def pixAddr (f : Frame) (bpp k x : Nat) : Nat := f.D + (k * f.W + x) * bpp

/-- Both pixels of a pair, each `bpp` bytes, packed by `pack` (R120). -/
def sinkRgb (bpp : Nat) (pack : Triple → Nat) (f : Frame) (k c : Nat) (left right : Triple) : List Host.Cell :=
  bytesLE (pixAddr f bpp k c) bpp (pack left) ++ bytesLE (pixAddr f bpp k (c + 1)) bpp (pack right)

/-- R121: alpha alone, fully opaque. -/
def packAlpha8 (_ : Triple) : Nat := 0xFF

/-- R122: A[31:24] R[23:16] G[15:8] B[7:0]. -/
def packArgb8888 (t : Triple) : Nat := 0xFF <<< 24 ||| t.r.toNat <<< 16 ||| t.g.toNat <<< 8 ||| t.b.toNat

/-- R123: A[15:12] R[11:8] G[7:4] B[3:0]. -/
def packArgb4444 (t : Triple) : Nat := 0xF <<< 12 ||| narrow t.r 4 <<< 8 ||| narrow t.g 4 <<< 4 ||| narrow t.b 4

/-- R124: A[15] R[14:10] G[9:5] B[4:0]. -/
def packArgb1555 (t : Triple) : Nat := 1 <<< 15 ||| narrow t.r 5 <<< 10 ||| narrow t.g 5 <<< 5 ||| narrow t.b 5

/-- R125: R[31:24] G[23:16] B[15:8] A[7:0]. -/
def packRgba8888 (t : Triple) : Nat := t.r.toNat <<< 24 ||| t.g.toNat <<< 16 ||| t.b.toNat <<< 8 ||| 0xFF

/-- R126: R[15:12] G[11:8] B[7:4] A[3:0]. -/
def packRgba4444 (t : Triple) : Nat := narrow t.r 4 <<< 12 ||| narrow t.g 4 <<< 8 ||| narrow t.b 4 <<< 4 ||| 0xF

/-- R127: R[15:11] G[10:6] B[5:1] A[0]. -/
def packRgba5551 (t : Triple) : Nat := narrow t.r 5 <<< 11 ||| narrow t.g 5 <<< 6 ||| narrow t.b 5 <<< 1 ||| 1

/-- R129: R[23:16] G[15:8] B[7:0]. -/
def packRgb888 (t : Triple) : Nat := t.r.toNat <<< 16 ||| t.g.toNat <<< 8 ||| t.b.toNat

/-- R128: the RGB888 packer, on triples of the swapped reconstruction. -/
def packBgr888 (t : Triple) : Nat := t.r.toNat <<< 16 ||| t.g.toNat <<< 8 ||| t.b.toNat

/-- R130: R[15:11] G[10:5] B[4:0]. -/
def packRgb565 (t : Triple) : Nat := narrow t.r 5 <<< 11 ||| narrow t.g 6 <<< 5 ||| narrow t.b 5

/-- SINK_ALPHA8 (R121). -/
def sinkAlpha8 (f : Frame) (k c : Nat) (left right : Triple) : List Host.Cell := sinkRgb 1 packAlpha8 f k c left right

/-- SINK_ARGB8888 (R122). -/
def sinkArgb8888 (f : Frame) (k c : Nat) (left right : Triple) : List Host.Cell := sinkRgb 4 packArgb8888 f k c left right

/-- SINK_ARGB4444 (R123). -/
def sinkArgb4444 (f : Frame) (k c : Nat) (left right : Triple) : List Host.Cell := sinkRgb 2 packArgb4444 f k c left right

/-- SINK_ARGB1555 (R124). -/
def sinkArgb1555 (f : Frame) (k c : Nat) (left right : Triple) : List Host.Cell := sinkRgb 2 packArgb1555 f k c left right

/-- SINK_RGBA8888 (R125). -/
def sinkRgba8888 (f : Frame) (k c : Nat) (left right : Triple) : List Host.Cell := sinkRgb 4 packRgba8888 f k c left right

/-- SINK_RGBA4444 (R126). -/
def sinkRgba4444 (f : Frame) (k c : Nat) (left right : Triple) : List Host.Cell := sinkRgb 2 packRgba4444 f k c left right

/-- SINK_RGBA5551 (R127). -/
def sinkRgba5551 (f : Frame) (k c : Nat) (left right : Triple) : List Host.Cell := sinkRgb 2 packRgba5551 f k c left right

/-- The sink of BGR888 (R128, R166): SINK_RGB888 after the pattern swap. -/
def sinkBgr888 (f : Frame) (k c : Nat) (left right : Triple) : List Host.Cell := sinkRgb 3 packBgr888 f k c left right

/-- SINK_RGB888 (R129). -/
def sinkRgb888 (f : Frame) (k c : Nat) (left right : Triple) : List Host.Cell := sinkRgb 3 packRgb888 f k c left right

/-- SINK_RGB565 (R130). -/
def sinkRgb565 (f : Frame) (k c : Nat) (left right : Triple) : List Host.Cell := sinkRgb 2 packRgb565 f k c left right

end Sys2Proof.Machine
end

