-- ==== Sys2Proof/Machine/YuvSink.lean ====
section
/-!
DEFINITION. The YUV-family pixel sink (43_yuv_sink.md): the colour conversion, the stores of the eight layouts,
and the planes of every format that the border copy takes (R131, R152).
-/

namespace Sys2Proof.Machine

/-- The Y of `toYUV` (R140). The sum is exact; it is never negative. -/
def lumaInt (t : Triple) : Int :=
  (66 * (t.r.toNat : Int) + 129 * (t.g.toNat : Int) + 25 * (t.b.toNat : Int) + 128) / 256 + 16

/-- The U of `toYUV` (R140); `/ 256` on Int is the floor, the arithmetic shift of D18. -/
def chromaUInt (t : Triple) : Int :=
  (-38 * (t.r.toNat : Int) - 74 * (t.g.toNat : Int) + 112 * (t.b.toNat : Int) + 128) / 256 + 128

/-- The V of `toYUV` (R140). -/
def chromaVInt (t : Triple) : Int :=
  (112 * (t.r.toNat : Int) - 94 * (t.g.toNat : Int) - 18 * (t.b.toNat : Int) + 128) / 256 + 128

/-- Y as the byte stored (R140: it fits; no clamp). -/
def luma (t : Triple) : Byte := BitVec.ofInt 8 (lumaInt t)

/-- U as the byte stored. -/
def chromaU (t : Triple) : Byte := BitVec.ofInt 8 (chromaUInt t)

/-- V as the byte stored. -/
def chromaV (t : Triple) : Byte := BitVec.ofInt 8 (chromaVInt t)

/-- `storeY` (R143). -/
def storeY (f : Frame) (k c : Nat) (left right : Triple) : List Host.Cell :=
  [(f.D + k * f.W + c, luma left), (f.D + k * f.W + c + 1, luma right)]

/-- Chroma stores that happen on even rows only (R141, 4:2:0). -/
def onEvenRow (k : Nat) (cells : List Host.Cell) : List Host.Cell := if k % 2 = 0 then cells else []

/-- SINK_YV12 (R144): planes Y, V, U. -/
def sinkYv12 (f : Frame) (k c : Nat) (left right : Triple) : List Host.Cell :=
  storeY f k c left right ++ onEvenRow k
    [ (f.D + f.W * f.H + k / 2 * (f.W / 2) + c / 2, chromaV left)
    , (f.D + f.W * f.H + f.W / 2 * (f.H / 2) + k / 2 * (f.W / 2) + c / 2, chromaU left) ]

/-- SINK_I420 (R145): planes Y, U, V. -/
def sinkI420 (f : Frame) (k c : Nat) (left right : Triple) : List Host.Cell :=
  storeY f k c left right ++ onEvenRow k
    [ (f.D + f.W * f.H + k / 2 * (f.W / 2) + c / 2, chromaU left)
    , (f.D + f.W * f.H + f.W / 2 * (f.H / 2) + k / 2 * (f.W / 2) + c / 2, chromaV left) ]

/-- SINK_NV12 (R146): planes Y, UV. -/
def sinkNv12 (f : Frame) (k c : Nat) (left right : Triple) : List Host.Cell :=
  storeY f k c left right ++ onEvenRow k
    [ (f.D + f.W * f.H + k / 2 * f.W + c, chromaU left)
    , (f.D + f.W * f.H + k / 2 * f.W + c + 1, chromaV left) ]

/-- SINK_NV21 (R147): planes Y, VU. -/
def sinkNv21 (f : Frame) (k c : Nat) (left right : Triple) : List Host.Cell :=
  storeY f k c left right ++ onEvenRow k
    [ (f.D + f.W * f.H + k / 2 * f.W + c, chromaV left)
    , (f.D + f.W * f.H + k / 2 * f.W + c + 1, chromaU left) ]

/-- SINK_I422 (R148): planes Y, U, V, chroma on every row. -/
def sinkI422 (f : Frame) (k c : Nat) (left right : Triple) : List Host.Cell :=
  storeY f k c left right ++
    [ (f.D + f.W * f.H + k * (f.W / 2) + c / 2, chromaU left)
    , (f.D + f.W * f.H + f.W / 2 * f.H + k * (f.W / 2) + c / 2, chromaV left) ]

/-- SINK_UYVY (R149): macropixel U Y0 V Y1. -/
def sinkUyvy (f : Frame) (k c : Nat) (left right : Triple) : List Host.Cell :=
  let a := f.D + (k * f.W + c) * 2
  [(a, chromaU left), (a + 1, luma left), (a + 2, chromaV left), (a + 3, luma right)]

/-- SINK_YUY2 (R150): macropixel Y0 U Y1 V. -/
def sinkYuy2 (f : Frame) (k c : Nat) (left right : Triple) : List Host.Cell :=
  let a := f.D + (k * f.W + c) * 2
  [(a, luma left), (a + 1, chromaU left), (a + 2, luma right), (a + 3, chromaV left)]

/-- SINK_I444 (R151): planes Y, U, V, both pixels' chroma. -/
def sinkI444 (f : Frame) (k c : Nat) (left right : Triple) : List Host.Cell :=
  storeY f k c left right ++
    [ (f.D + f.W * f.H + k * f.W + c, chromaU left)
    , (f.D + f.W * f.H + k * f.W + c + 1, chromaU right)
    , (f.D + 2 * f.W * f.H + k * f.W + c, chromaV left)
    , (f.D + 2 * f.W * f.H + k * f.W + c + 1, chromaV right) ]

/-! ## Border planes -/

/-- One row copy of BORDER (R170): row `src` of a plane into row `dst`. -/
structure RowCopy where
  base  : Nat
  pitch : Nat
  src   : Nat
  dst   : Nat
  deriving DecidableEq, Repr

/-- Row H - 2 into row H - 1 of a full-height plane (R170). -/
def lastRowCopy (f : Frame) (base pitch : Nat) : RowCopy :=
  { base := base, pitch := pitch, src := f.H - 2, dst := f.H - 1 }

/-- The one plane of an RGB format with `bpp` bytes a pixel (R131). -/
def rgbPlanes (bpp : Nat) (f : Frame) : List RowCopy := [lastRowCopy f f.D (f.W * bpp)]

/-- The planes of NV12 and NV21 (R152): Y, and under COPY_PREV with H at least 4 the chroma row before the last. -/
def semiPlanes (p : Params) (f : Frame) : List RowCopy :=
  lastRowCopy f f.D f.W ::
    (if p.spLastUv = .copyPrev ∧ 4 ≤ f.H then
       [{ base := f.D + f.W * f.H, pitch := f.W, src := f.H / 2 - 2, dst := f.H / 2 - 1 }]
     else [])

/-- The plane list of every format, in order (R131, R152). -/
def borderPlanes (p : Params) (fmt : Format) (f : Frame) : List RowCopy :=
  match fmt with
  | .alpha8 => rgbPlanes 1 f
  | .argb8888 | .rgba8888 => rgbPlanes 4 f
  | .argb4444 | .argb1555 | .rgba4444 | .rgba5551 | .rgb565 => rgbPlanes 2 f
  | .rgb888 | .bgr888 => rgbPlanes 3 f
  | .yv12 | .i420 => [lastRowCopy f f.D f.W]
  | .nv12 | .nv21 => semiPlanes p f
  | .i422 =>
    [ lastRowCopy f f.D f.W, lastRowCopy f (f.D + f.W * f.H) (f.W / 2),
      lastRowCopy f (f.D + f.W * f.H + f.W / 2 * f.H) (f.W / 2) ]
  | .uyvy | .yuy2 => [lastRowCopy f f.D (2 * f.W)]
  | .i444 =>
    [ lastRowCopy f f.D f.W, lastRowCopy f (f.D + f.W * f.H) f.W, lastRowCopy f (f.D + 2 * f.W * f.H) f.W ]

/-- COPYROW (R170) of one plane. -/
def copyRow (p : Params) (r : RowCopy) (m : Memory) : Memory × Bool :=
  copyBytes p (r.base + r.src * r.pitch) (r.base + r.dst * r.pitch) m 0 r.pitch

end Sys2Proof.Machine
end

