-- ==== Sys2Proof/Machine/Driver.lean ====
section
/-!
DEFINITION. The streaming frame driver (44_frame_driver.md): VALIDATE, the column-pair and group steps, BORDER and
completion. One engine step of R169 is `driverStep`; a job operation DMS.<fmt> runs over several steps, as R169
orders them, so that register transactions and host accesses may come between.
-/

namespace Sys2Proof.Machine

/-- Sink dispatch (R166). -/
def sink : Format → Frame → Nat → Nat → Triple → Triple → List Host.Cell
  | .alpha8 => sinkAlpha8
  | .argb8888 => sinkArgb8888
  | .argb4444 => sinkArgb4444
  | .argb1555 => sinkArgb1555
  | .rgba8888 => sinkRgba8888
  | .rgba4444 => sinkRgba4444
  | .rgba5551 => sinkRgba5551
  | .bgr888 => sinkBgr888
  | .rgb888 => sinkRgb888
  | .rgb565 => sinkRgb565
  | .yv12 => sinkYv12
  | .i420 => sinkI420
  | .nv12 => sinkNv12
  | .nv21 => sinkNv21
  | .i422 => sinkI422
  | .uyvy => sinkUyvy
  | .yuy2 => sinkYuy2
  | .i444 => sinkI444

/-- What one engine step works on: the instance, the data space and the number of free values taken. -/
structure Work where
  eng   : Engine
  mem   : Memory
  draws : Nat
  deriving DecidableEq, Repr

/-! ## VALIDATE -/

/-- Entry to ROWS (R163). -/
def Engine.enterRows (fmt : Format) (pat : Pattern) (e : Engine) : Engine :=
  { e with
    phase := .rows, physPattern := physPatternOf fmt pat, geom := deriveTile (physPatternOf fmt pat), k := 0, c := 0 }

/-- The null test of R161: RAW_ADDR or DST_ADDR is the absent reference (R210). -/
def Engine.nullRef (e : Engine) : Bool := decide (e.rawAddr = 0 ∨ e.dstAddr = 0)

/-- VALIDATE (R161) of a job with a supported format. -/
def validateStep (fmt : Format) (n : Nat) (pat : Pattern) (e : Engine) (s : State) : State :=
  if e.nullRef then complete .nullPointer (some fmt) n e s
  else if violations s.params fmt e.frame = FaultSet.empty then s.setInst n (e.enterRows fmt pat)
  else raiseFaults n (violations s.params fmt e.frame) e s

/-- VALIDATE (R161) of a job with a reserved format (R85, R211). -/
def validateUnsupported (n : Nat) (e : Engine) (s : State) : State :=
  if e.nullRef then complete .nullPointer none n e s else complete .unsupportedFormat none n e s

/-! ## ROWS -/

/-- ADVANCE(k) before the first pair of a row k of at least 1 (R164, R165). -/
def Engine.advanced (e : Engine) : Engine :=
  if e.c = 0 ∧ 1 ≤ e.k.toNat then { e with geom := advance e.k.toNat e.geom } else e

/-- Where a pair step leaves `k`, `c` and `phase` (R165). -/
def Engine.nextPair (e : Engine) : Engine :=
  if e.c.toNat + 4 ≤ e.width.toNat then { e with c := e.c + 2 }
  else if e.k.toNat + 3 ≤ e.height.toNat then { e with k := e.k + 1, c := 0 }
  else { e with phase := .border, plane := 0 }

/-- What the raw reads of one pair find (R53, R70). -/
def pairSource (w : Work) (i a : Nat) : Byte := rawByte w.eng.clash w.mem (w.draws + i) a

/-- The bytes PAIR(k, c) stores (R165), for an instance whose geometry is already that of row k. -/
def pairCells (p : Params) (fmt : Format) (w : Work) : List Host.Cell :=
  let f := w.eng.frame
  sink fmt f w.eng.k.toNat w.eng.c.toNat
    (leftTriple (pairSource w) f w.eng.geom w.eng.c.toNat)
    (rightTriple p (pairSource w) (w.draws + 8) f w.eng.geom w.eng.c.toNat)

/-- PAIR(k, c) (R165): the raw reads of RECONSTRUCT, then the stores of the sink. The first access that is not
admitted makes the instance FAULTED (R212, R214; assumption 13). -/
def pairWork (p : Params) (fmt : Format) (w : Work) : Work :=
  let v := { w with eng := w.eng.advanced }
  if (pairReads p v.eng.frame v.eng.geom v.eng.c.toNat).all (canRead p) then
    match storeAll p v.mem (pairCells p fmt v) with
    | (m, true) => { eng := v.eng.nextPair, mem := m, draws := w.draws + drawsPerPair }
    | (m, false) => { eng := { v.eng with phase := .faulted }, mem := m, draws := w.draws + drawsPerPair }
  else { v with eng := { v.eng with phase := .faulted } }

/-- The enabled lanes of one group (R172, R173), at most `g`: the group ends with its row. -/
def groupWork (p : Params) (fmt : Format) : Nat → Work → Work
  | 0, w => w
  | g + 1, w =>
    let v := pairWork p fmt w
    if v.eng.phase = .rows ∧ v.eng.c ≠ 0 then groupWork p fmt g v else v

/-- One plane row copied by BORDER (R170). -/
def copyWork (p : Params) (r : RowCopy) (w : Work) : Work :=
  match copyRow p r w.mem with
  | (m, true) => { w with eng := { w.eng with plane := w.eng.plane + 1 }, mem := m }
  | (m, false) => { w with eng := { w.eng with phase := .faulted }, mem := m }

/-- The state after an engine step of instance `n`; a step that left it FAULTED met a refused access (R214). -/
def State.commit (s : State) (n : Nat) (w : Work) : State :=
  let t := { s.setInst n w.eng with mem := w.mem, draws := w.draws }
  if w.eng.phase = .faulted then t.addFaults FaultSet.memOnly else t

/-- One step of phase ROWS. -/
def rowsStep (fmt : Format) (n : Nat) (e : Engine) (s : State) : State :=
  s.commit n (groupWork s.params fmt (groupSize s.params.groupPairs) { eng := e, mem := s.mem, draws := s.draws })

/-- One step of phase BORDER: the next row copy, or the completion with SUCCESS after the last (R169, R170). -/
def borderStep (fmt : Format) (n : Nat) (e : Engine) (s : State) : State :=
  match (borderPlanes s.params fmt e.frame)[e.plane]? with
  | some r => s.commit n (copyWork s.params r { eng := e, mem := s.mem, draws := s.draws })
  | none => complete .success (some fmt) n e s

/-! ## One engine step -/

/-- The next step (R169, assumption 14) of the job DMS.<fmt> with pattern operand `pat` on instance `n`. An idle instance does
nothing (R225); a FAULTED one takes no further step (R214). -/
def driverStep (fmt : Format) (n : Nat) (pat : Pattern) (s : State) : Answer :=
  withInst n (fun e =>
    match e.phase with
    | .idle => s
    | .validate => validateStep fmt n pat e s
    | .rows => rowsStep fmt n e s
    | .border => borderStep fmt n e s
    | .faulted => s) s

/-- The next step of a job whose FORMAT code is reserved: it completes at once (R85, R211). It never reaches ROWS
(R166), where the step is the same (assumption 14). -/
def unsupportedStep (n : Nat) (s : State) : Answer :=
  withInst n (fun e =>
    match e.phase with
    | .idle => s
    | .validate | .rows | .border => validateUnsupported n e s
    | .faulted => s) s

end Sys2Proof.Machine
end

