-- ==== Sys2Proof/Machine/Jobs.lean ====
section
/-!
DEFINITION. The meanings of the job operations DMS.<fmt> (44_frame_driver.md R168) and DMS.UNSUPPORTED (R85): the
next step, in the order of R169, of the job that instance `n` runs with that job word.
-/

namespace Sys2Proof.Machine

/-- DMS.ALPHA8 (R121, R168). -/
def execDmsAlpha8 (n : Nat) (pat : Pattern) (s : State) : Answer := driverStep .alpha8 n pat s

/-- DMS.ARGB8888 (R122, R168). -/
def execDmsArgb8888 (n : Nat) (pat : Pattern) (s : State) : Answer := driverStep .argb8888 n pat s

/-- DMS.ARGB4444 (R123, R168). -/
def execDmsArgb4444 (n : Nat) (pat : Pattern) (s : State) : Answer := driverStep .argb4444 n pat s

/-- DMS.ARGB1555 (R124, R168). -/
def execDmsArgb1555 (n : Nat) (pat : Pattern) (s : State) : Answer := driverStep .argb1555 n pat s

/-- DMS.RGBA8888 (R125, R168). -/
def execDmsRgba8888 (n : Nat) (pat : Pattern) (s : State) : Answer := driverStep .rgba8888 n pat s

/-- DMS.RGBA4444 (R126, R168). -/
def execDmsRgba4444 (n : Nat) (pat : Pattern) (s : State) : Answer := driverStep .rgba4444 n pat s

/-- DMS.RGBA5551 (R127, R168). -/
def execDmsRgba5551 (n : Nat) (pat : Pattern) (s : State) : Answer := driverStep .rgba5551 n pat s

/-- DMS.BGR888 (R128, R168). -/
def execDmsBgr888 (n : Nat) (pat : Pattern) (s : State) : Answer := driverStep .bgr888 n pat s

/-- DMS.RGB888 (R129, R168). -/
def execDmsRgb888 (n : Nat) (pat : Pattern) (s : State) : Answer := driverStep .rgb888 n pat s

/-- DMS.RGB565 (R130, R168). -/
def execDmsRgb565 (n : Nat) (pat : Pattern) (s : State) : Answer := driverStep .rgb565 n pat s

/-- DMS.YV12 (R144, R168). -/
def execDmsYv12 (n : Nat) (pat : Pattern) (s : State) : Answer := driverStep .yv12 n pat s

/-- DMS.I420 (R145, R168). -/
def execDmsI420 (n : Nat) (pat : Pattern) (s : State) : Answer := driverStep .i420 n pat s

/-- DMS.NV12 (R146, R168). -/
def execDmsNv12 (n : Nat) (pat : Pattern) (s : State) : Answer := driverStep .nv12 n pat s

/-- DMS.NV21 (R147, R168). -/
def execDmsNv21 (n : Nat) (pat : Pattern) (s : State) : Answer := driverStep .nv21 n pat s

/-- DMS.I422 (R148, R168). -/
def execDmsI422 (n : Nat) (pat : Pattern) (s : State) : Answer := driverStep .i422 n pat s

/-- DMS.UYVY (R149, R168). -/
def execDmsUyvy (n : Nat) (pat : Pattern) (s : State) : Answer := driverStep .uyvy n pat s

/-- DMS.YUY2 (R150, R168). -/
def execDmsYuy2 (n : Nat) (pat : Pattern) (s : State) : Answer := driverStep .yuy2 n pat s

/-- DMS.I444 (R151, R168). -/
def execDmsI444 (n : Nat) (pat : Pattern) (s : State) : Answer := driverStep .i444 n pat s

/-- DMS.UNSUPPORTED (R85, R88, R211): neither the reserved code nor the pattern has any further effect. -/
def execDmsUnsupported (n : Nat) (_code : BitVec 5) (_pat : Pattern) (s : State) : Answer := unsupportedStep n s

end Sys2Proof.Machine
end

