-- ==== Sys2Proof/Machine/Registers.lean ====
section
/-!
DEFINITION. The meanings of the register transactions RD.<reg> and WR.<reg> (45_host_interface.md). A read has no
side effect but to return RDATA (R180).
-/

namespace Sys2Proof.Machine

/-! ## Reads -/

/-- RD.CTRL (R181). -/
def execRdCtrl (n : Nat) (s : State) : Answer := readReg n Engine.ctrlWord s

/-- RD.STATUS (R183). -/
def execRdStatus (n : Nat) (s : State) : Answer := readReg n Engine.statusWord s

/-- RD.RESULT (R185). -/
def execRdResult (n : Nat) (s : State) : Answer := readReg n (fun e => e.code.word) s

/-- RD.CFG (R187). -/
def execRdCfg (n : Nat) (s : State) : Answer := readReg n Engine.cfgWord s

/-- RD.RAW_ADDR (R189). -/
def execRdRawAddr (n : Nat) (s : State) : Answer := readReg n Engine.rawAddr s

/-- RD.RAW_STRIDE (R191). -/
def execRdRawStride (n : Nat) (s : State) : Answer := readReg n Engine.rawStride s

/-- RD.WIDTH (R193). -/
def execRdWidth (n : Nat) (s : State) : Answer := readReg n Engine.width s

/-- RD.HEIGHT (R195). -/
def execRdHeight (n : Nat) (s : State) : Answer := readReg n Engine.height s

/-- RD.DST_ADDR (R197). -/
def execRdDstAddr (n : Nat) (s : State) : Answer := readReg n Engine.dstAddr s

/-- RD.RSVD (R199): zero, at every reserved offset. -/
def execRdRsvd (n : Nat) (_offset : BitVec 8) (s : State) : Answer := readReg n (fun _ => 0) s

/-! ## Writes -/

/-- WR.CTRL (R182): IRQ_EN takes WDATA[1] whether or not BUSY; WDATA[0] = 1 while not BUSY is an accepted START
(R160). -/
def execWrCtrl (n : Nat) (wdata : Word) (s : State) : Answer :=
  withInst n (fun e =>
    let e' := { e with irqEn := wdata.getLsbD 1 }
    if wdata.getLsbD 0 && !e.busy then acceptStart n e' s else s.setInst n e') s

/-- WR.STATUS (R184): WDATA[1] = 1 clears DONE; BUSY is not writable. -/
def execWrStatus (n : Nat) (wdata : Word) (s : State) : Answer :=
  writeReg n (fun e => if wdata.getLsbD 1 then e.doneCleared else e) s

/-- WR.RESULT (R186): accepted and ignored. -/
def execWrResult (n : Nat) (_wdata : Word) (s : State) : Answer := writeReg n (fun e => e) s

/-- WR.CFG (R188). -/
def execWrCfg (n : Nat) (wdata : Word) (s : State) : Answer :=
  writeConfig n (fun e => { e with format := cfgFormat wdata, pattern := cfgPattern wdata }) s

/-- WR.RAW_ADDR (R190). -/
def execWrRawAddr (n : Nat) (wdata : Word) (s : State) : Answer :=
  writeConfig n (fun e => { e with rawAddr := wdata }) s

/-- WR.RAW_STRIDE (R192). -/
def execWrRawStride (n : Nat) (wdata : Word) (s : State) : Answer :=
  writeConfig n (fun e => { e with rawStride := wdata }) s

/-- WR.WIDTH (R194). -/
def execWrWidth (n : Nat) (wdata : Word) (s : State) : Answer :=
  writeConfig n (fun e => { e with width := wdata }) s

/-- WR.HEIGHT (R196). -/
def execWrHeight (n : Nat) (wdata : Word) (s : State) : Answer :=
  writeConfig n (fun e => { e with height := wdata }) s

/-- WR.DST_ADDR (R198). -/
def execWrDstAddr (n : Nat) (wdata : Word) (s : State) : Answer :=
  writeConfig n (fun e => { e with dstAddr := wdata }) s

/-- WR.RSVD (R200): no effect, at every reserved offset. -/
def execWrRsvd (n : Nat) (_offset : BitVec 8) (_wdata : Word) (s : State) : Answer := writeReg n (fun e => e) s

end Sys2Proof.Machine
end

