-- ==== Sys2Proof/Machine/Dispatch.lean ====
section
/-!
DEFINITION. The dispatch: one arm per operation, each one call of its meaning.
-/

namespace Sys2Proof.Machine

def exec (i : Instr) (s : State) : Host.Outcome State Fault Refusal :=
  match i with
  | .dmsAlpha8 n p => Sys2Proof.Machine.execDmsAlpha8 n p s
  | .dmsArgb8888 n p => Sys2Proof.Machine.execDmsArgb8888 n p s
  | .dmsArgb4444 n p => Sys2Proof.Machine.execDmsArgb4444 n p s
  | .dmsArgb1555 n p => Sys2Proof.Machine.execDmsArgb1555 n p s
  | .dmsRgba8888 n p => Sys2Proof.Machine.execDmsRgba8888 n p s
  | .dmsRgba4444 n p => Sys2Proof.Machine.execDmsRgba4444 n p s
  | .dmsRgba5551 n p => Sys2Proof.Machine.execDmsRgba5551 n p s
  | .dmsBgr888 n p => Sys2Proof.Machine.execDmsBgr888 n p s
  | .dmsRgb888 n p => Sys2Proof.Machine.execDmsRgb888 n p s
  | .dmsRgb565 n p => Sys2Proof.Machine.execDmsRgb565 n p s
  | .dmsYv12 n p => Sys2Proof.Machine.execDmsYv12 n p s
  | .dmsI420 n p => Sys2Proof.Machine.execDmsI420 n p s
  | .dmsNv12 n p => Sys2Proof.Machine.execDmsNv12 n p s
  | .dmsNv21 n p => Sys2Proof.Machine.execDmsNv21 n p s
  | .dmsI422 n p => Sys2Proof.Machine.execDmsI422 n p s
  | .dmsUyvy n p => Sys2Proof.Machine.execDmsUyvy n p s
  | .dmsYuy2 n p => Sys2Proof.Machine.execDmsYuy2 n p s
  | .dmsI444 n p => Sys2Proof.Machine.execDmsI444 n p s
  | .dmsUnsupported n c p => Sys2Proof.Machine.execDmsUnsupported n c p s
  | .rdCtrl n => Sys2Proof.Machine.execRdCtrl n s
  | .rdStatus n => Sys2Proof.Machine.execRdStatus n s
  | .rdResult n => Sys2Proof.Machine.execRdResult n s
  | .rdCfg n => Sys2Proof.Machine.execRdCfg n s
  | .rdRawAddr n => Sys2Proof.Machine.execRdRawAddr n s
  | .rdRawStride n => Sys2Proof.Machine.execRdRawStride n s
  | .rdWidth n => Sys2Proof.Machine.execRdWidth n s
  | .rdHeight n => Sys2Proof.Machine.execRdHeight n s
  | .rdDstAddr n => Sys2Proof.Machine.execRdDstAddr n s
  | .wrCtrl n w => Sys2Proof.Machine.execWrCtrl n w s
  | .wrStatus n w => Sys2Proof.Machine.execWrStatus n w s
  | .wrResult n w => Sys2Proof.Machine.execWrResult n w s
  | .wrCfg n w => Sys2Proof.Machine.execWrCfg n w s
  | .wrRawAddr n w => Sys2Proof.Machine.execWrRawAddr n w s
  | .wrRawStride n w => Sys2Proof.Machine.execWrRawStride n w s
  | .wrWidth n w => Sys2Proof.Machine.execWrWidth n w s
  | .wrHeight n w => Sys2Proof.Machine.execWrHeight n w s
  | .wrDstAddr n w => Sys2Proof.Machine.execWrDstAddr n w s
  | .rdRsvd n o => Sys2Proof.Machine.execRdRsvd n o s
  | .wrRsvd n o w => Sys2Proof.Machine.execWrRsvd n o w s

end Sys2Proof.Machine
end

