-- ==== Sys2Proof/Machine/Agents.lean ====
section
/-!
DEFINITION. The moves of the agents (10_state.md R20): the host's register transactions (R180) and data-space
accesses (20_memory.md R65), the engine's steps (R169) and reset (R230); and which agent moves next.
-/

namespace Sys2Proof.Machine

/-! ## The host -/

/-- OFFSET of an address in the window at `base`, if it lies in it: the window is 0x100 bytes (R23). ENGINE_BASE + OFFSET
is taken modulo 2^32, so a window less than 0x100 bytes below 2^32 goes on at address 0: R8, R23 and R222 give
ENGINE_BASE no limit and do not say (DESIGN CHOICE, assumption 9). -/
def windowOffset (base addr : Word) : Option (BitVec 8) :=
  if (addr - base).toNat < 0x100 then some ((addr - base).setWidth 8) else none

/-- The instance whose window holds an address, and the offset in it (R180); `i` numbers the first of the list. Of
overlapping windows the instance with the lower number answers (DESIGN CHOICE, assumption 9). -/
def routeFrom (addr : Word) (i : Nat) : List Engine → Option (Nat × BitVec 8)
  | [] => none
  | e :: rest =>
    match windowOffset e.base addr with
    | some o => some (i, o)
    | none => routeFrom addr (i + 1) rest

/-- The encoded object a bus access presents to an instance (R82). -/
def State.route (s : State) (t : Transaction) : Option Encoded :=
  match routeFrom t.addr 0 s.insts with
  | some (n, o) => some (.mmio n (packTx t.write o) t.size t.wdata)
  | none => none

/-- A transaction that encodes no operation (R90, R215): the mark is set and no register changes. The data of a
refused read is not defined (R180), so it is a free value. -/
def refuseAccess (t : Transaction) (s : State) : State :=
  if t.write then s.markRefused
  else ((s.markRefused).setRdata (Config.refusedData s.draws)).takeDraws 1

/-- A register transaction (R180): routed, decoded and executed in one step. -/
def transactMove (t : Transaction) (s : State) : Answer :=
  match s.route t with
  | none => .fault .noWindow
  | some x =>
    match decode x with
    | .ok i => exec i s
    | .error _ => .next (refuseAccess t s)

/-- Is `a` a byte of the DstFP of a BUSY instance (R65)? -/
def State.dstBusy (s : State) (a : Nat) : Bool :=
  s.insts.any fun e => e.busy && (e.footprint s.params).inDst a

/-- A host read of a byte (R65): a draw while it lies in the DstFP of a running job. -/
def readByteMove (a : Word) (s : State) : State :=
  if s.dstBusy a.toNat then (s.setHostByte (Config.draw8 s.draws)).takeDraws 1
  else s.setHostByte (s.mem.read a.toNat)

/-- A host write to a footprint of a running job is the race of R65 and R239. -/
def Engine.hitBy (p : Params) (a : Nat) (e : Engine) : Engine :=
  if e.busy && (e.footprint p).covers a then { e with raced := true } else e

/-- A host write of a byte: MemAdmit is a test of engine accesses only (R50, assumption 16). -/
def writeByteMove (a : Word) (v : Byte) (s : State) : State :=
  { s with mem := s.mem.write a.toNat v, insts := s.insts.map (Engine.hitBy s.params a.toNat) }

/-- A move of the host. -/
def hostMove : HostAction → State → Answer
  | .transact t, s => transactMove t s
  | .readByte a, s => .next (readByteMove a s)
  | .writeByte a v, s => .next (writeByteMove a v s)

/-! ## The engines and the platform -/

/-- The operation an instance's job word decodes to (R80, R88). -/
def Engine.jobInstr (n : Nat) (e : Engine) : Instr := decodeJob n e.cfgWord

/-- An engine step of instance `n`: the job operation its job word decodes to takes its next step. -/
def engineMove (n : Nat) (s : State) : Answer :=
  match s.insts[n]? with
  | some e => exec (e.jobInstr n) s
  | none => .fault .noInstance

/-- Reset of instance `n` (R230). -/
def resetMove (n : Nat) (s : State) : Answer := withInst n (fun e => resetInst n e s) s

/-- One move of one agent. -/
def performMove : Move → State → Answer
  | .host a, s => hostMove a s
  | .engine n, s => engineMove n s
  | .reset n, s => resetMove n s

/-! ## Who moves next -/

/-- An instance with an enabled step: a job in flight that has not faulted (R214, R225). -/
def Engine.runnable (e : Engine) : Bool := e.busy && decide (e.phase ≠ .faulted)

/-- With no move fixed from outside, the first instance with an enabled step takes it (R177: weak fairness); when
there is none, nothing happens (R225). -/
def idleMove (s : State) : Answer :=
  match s.insts.findIdx? Engine.runnable with
  | some n => engineMove n s
  | none => .next s

/-! ## Presenting an operation (assumption 4) -/

/-- The state in which the next step runs the operation that `x` encodes: a transaction is the host's next move; a
job word is that of a job just accepted on its instance, whose step is the next move. -/
def presentObject (x : Encoded) (s : State) : State :=
  match x with
  | .mmio n tx size wdata =>
    let base := match s.insts[n]? with
      | some e => e.base
      | none => 0
    s.setAgenda (.host (.transact { write := tx.getLsbD 8, addr := base + (tx.extractLsb' 0 8).setWidth 32
                                    size := size, wdata := wdata }) :: s.agenda)
  | .job n cfg =>
    match s.insts[n]? with
    | some e =>
      (acceptStart n { e with format := cfgFormat cfg, pattern := cfgPattern cfg } s).setAgenda (.engine n :: s.agenda)
    | none => s.setAgenda (.engine n :: s.agenda)

end Sys2Proof.Machine
end

