-- ==== Sys2Proof/Machine/Step.lean ====
section
/-!
DEFINITION. One step of the machine (44_frame_driver.md R169): one move of one agent.
-/

namespace Sys2Proof.Machine

/-- The first pending move is made; with none pending the engines run on their own. -/
def step (s : State) : Host.Outcome State Fault Refusal :=
  match s.agenda with
  | [] => idleMove s
  | mv :: rest => performMove mv (s.setAgenda rest)

/-- `s` with the operation that a word of spec/opcode_table.json stands for presented to instance 0, so that the
next step runs it (assumption 4). -/
def State.withFetchWord (s : State) (nbits w : Nat) : State := presentObject (tableObject nbits w) s

end Sys2Proof.Machine
end

