-- ==== Sys2Proof/Safety.lean ====
section
/-!
DEFINITION. What claims are stated in: the invariant of the machine, clean runs, and a job operation taken through
several of its steps.
-/

namespace Sys2Proof.Machine

/-- What holds of a job that VALIDATE has let pass (R161, R163): a supported format, both references present, no
validation fault, and the pattern SWAP_RB gives. -/
def Engine.jobValid (p : Params) (e : Engine) : Bool :=
  match formatOfCode e.format with
  | some fmt =>
    !e.nullRef && decide (violations p fmt e.frame = FaultSet.empty)
      && decide (e.physPattern = physPatternOf fmt e.pattern)
  | none => false

/-- The row before which the geometry stands: ADVANCE(k) has run once row k is past its first pair (R165). -/
def Engine.geomRow (e : Engine) : Nat := if e.c = 0 then e.k.toNat - 1 else e.k.toNat

/-- What holds in phase ROWS (R38, R104, R164, R165): k is at most H - 2, c is even and at most W - 2, and the row
references are those of the row. -/
def Engine.rowsValid (e : Engine) : Bool :=
  decide (e.k.toNat + 2 ≤ e.height.toNat ∧ e.c.toNat + 2 ≤ e.width.toNat ∧ e.c.toNat % 2 = 0 ∧
    e.geom = rowGeometry e.physPattern e.geomRow)

/-- The invariant of one instance: BUSY marks exactly the phases other than IDLE (R36), BUSY and DONE never hold at
once (R25), and the two facts above hold in their phases. -/
abbrev Engine.Inv (p : Params) (e : Engine) : Prop :=
  (e.busy = true ↔ e.phase ≠ .idle) ∧ (e.busy = true → e.done = false) ∧
  (e.phase = .rows ∨ e.phase = .border → e.jobValid p = true) ∧ (e.phase = .rows → e.rowsValid = true)

/-- The invariant of the machine: the data space is in canonical form and every instance is as above. -/
abbrev State.Inv (s : State) : Prop := s.mem.wf ∧ ∀ e ∈ s.insts, e.Inv s.params

/-- No model fault and no refused transaction has been recorded: the runs that mean something (R214, R215). -/
abbrev State.Clean (s : State) : Prop := s.faults = FaultSet.empty ∧ s.refused = false

/-- The operation `i` taken through `n` of its steps with nothing else moving (R168, R169). -/
def execTimes (i : Instr) : Nat → State → Answer
  | 0, s => .next s
  | n + 1, s =>
    match exec i s with
    | .next t => execTimes i n t
    | .fault r => .fault r
    | .refused r => .refused r

end Sys2Proof.Machine
end

