-- ==== Sys2Proof/Certificates/Slice0/Obligations.lean ====
section
/-!
DEFINITION. The obligations: what the spec's numbered rules say the machine does. Each docstring names the rules it
formalises, and says so where a clause is the model's choice (the assumption log's entries are in notes/assumptions).
-/

open Sys2Proof Sys2Proof.Machine

/-! ## What the statements are written in -/

/-- The triple `left` of the pair that instance `e` is about to process (R113, R165). -/
def Sys2Proof.Machine.State.leftOf (s : State) (e : Engine) : Triple :=
  leftTriple (pairSource { eng := e.advanced, mem := s.mem, draws := s.draws }) e.frame e.advanced.geom e.c.toNat

/-- The triple `right` of that pair (R113, R114, R165). -/
def Sys2Proof.Machine.State.rightOf (s : State) (e : Engine) : Triple :=
  rightTriple s.params (pairSource { eng := e.advanced, mem := s.mem, draws := s.draws }) (s.draws + 8) e.frame
    e.advanced.geom e.c.toNat

/-- Instance `n` is in phase ROWS with registers `e`, processes one pair a step, and every raw read of its next pair
is admitted; the data space is in canonical form (an invariant of the machine, StepKeepsTheInvariant). Groups of 8 and
16 pairs are GroupStepEqualsPairSteps. -/
abbrev Sys2Proof.Machine.State.PairReady (s : State) (n : Nat) (e : Engine) : Prop :=
  s.insts[n]? = some e ∧ e.phase = .rows ∧ s.params.groupPairs = .one ∧ s.mem.wf ∧
  (pairReads s.params e.frame e.advanced.geom e.c.toNat).all (canRead s.params) = true

/-- The state after a pair step that leaves the data space `m` (R165): the pair counters move on, eleven draws are
reserved (assumption 2), and nothing else changes. -/
def Sys2Proof.Machine.State.afterPair (s : State) (n : Nat) (e : Engine) (m : Memory) : State :=
  { s with insts := s.insts.set n e.advanced.nextPair, mem := m, draws := s.draws + 11 }

/-- The byte at `a` after two words of `bpp` bytes, `v` and then `w`, have been stored from `b` on, least significant
byte first (R51, R120); `old` is what was there. -/
def Sys2Proof.Machine.twoWords (bpp b v w : Nat) (old : Nat → Byte) (a : Nat) : Byte :=
  if b ≤ a ∧ a < b + bpp then BitVec.ofNat 8 (v / 256 ^ (a - b))
  else if b + bpp ≤ a ∧ a < b + 2 * bpp then BitVec.ofNat 8 (w / 256 ^ (a - b - bpp))
  else old a

/-- A pair step of an RGB format with `bpp` bytes a pixel and pixel word `word` (R120, R165): when the `2 * bpp` bytes
of the two pixels are admitted, the step answers, the two words stand at `pix(k, c)` and `pix(k, c + 1)`, and every
other byte of the data space and everything else in the state is as before. -/
def Sys2Proof.Machine.StoresRgbPair (i : Instr) (bpp : Nat) (word : Triple → Nat) (s : State) (n : Nat) (e : Engine) :
    Prop :=
  s.PairReady n e →
  (∀ j < 2 * bpp, canWrite s.params
    (e.dstAddr.toNat + (e.k.toNat * e.width.toNat + e.c.toNat) * bpp + j) = true) →
  ∃ m : Memory, exec i s = .next (s.afterPair n e m) ∧ m.wf ∧
    ∀ a, m.read a = twoWords bpp (e.dstAddr.toNat + (e.k.toNat * e.width.toNat + e.c.toNat) * bpp)
      (word (s.leftOf e)) (word (s.rightOf e)) s.mem.read a

/-- A pair step of a YUV layout that stores `cells` in the layout's planes (R165): when every store is admitted, the
step answers, each byte of the list stands at its address, and every other byte and everything else is as before. -/
def Sys2Proof.Machine.StoresYuvPair (i : Instr) (s : State) (n : Nat) (e : Engine) (cells : List Host.Cell) : Prop :=
  s.PairReady n e → e.Inv s.params → (∀ x ∈ cells, canWrite s.params x.1 = true) →
  ∃ m : Memory, exec i s = .next (s.afterPair n e m) ∧ m.wf ∧
    (∀ x ∈ cells, m.read x.1 = x.2) ∧ ∀ a, (∀ x ∈ cells, x.1 ≠ a) → m.read a = s.mem.read a

/-- RAW_ADDR and DST_ADDR are present and none of the four predicates of R162 holds. -/
def Sys2Proof.Machine.Engine.Startable (p : Params) (fmt : Format) (e : Engine) : Prop :=
  e.rawAddr ≠ 0 ∧ e.dstAddr ≠ 0 ∧ violations p fmt e.frame = FaultSet.empty

/-- The platform admits every engine access to the data space (R50). -/
def Sys2Proof.Params.AdmitsAll (p : Params) : Prop :=
  ∀ a < 2 ^ 32, canRead p a = true ∧ canWrite p a = true

/-- ⌈(W/2)/G⌉, the group steps of one row (R177). -/
def Sys2Proof.Machine.groupsPerRow (p : Params) (f : Frame) : Nat :=
  (f.W / 2 + groupSize p.groupPairs - 1) / groupSize p.groupPairs

/-- The number of steps of R177: VALIDATE, the pair or group steps of rows 0 .. H - 2, the border copies and the
completion. -/
def Sys2Proof.Machine.jobSteps (p : Params) (fmt : Format) (f : Frame) : Nat :=
  1 + (f.H - 1) * groupsPerRow p f + (borderPlanes p fmt f).length + 1

/-! ## Encoding -/

/-- R81, R82, R83, R84, R89: decode after encode is the identity on well-formed operations. -/
def Obligations.DecodeEncodeRoundTrip : Prop :=
  ∀ i : Instr, i.wf = true → decode (encode i) = .ok i

/-- R81, R82, R88, R89: no bit of a job word but the reserved ones, and no bit of an aligned transaction, is lost. -/
def Obligations.EncodeDecodeKeepsEveryMeaningfulBit : Prop :=
  (∀ (n : Nat) (cfg : Word), encode (decodeJob n cfg) = .job n (cfg &&& 0x1F03)) ∧
  ∀ (n : Nat) (tx : BitVec 9) (w : Word), tx.extractLsb' 0 2 = 0 →
    ∃ i, decode (.mmio n tx 4 w) = .ok i ∧ i.wf = true ∧
      encode i = .mmio n tx 4 (if tx.getLsbD 8 = true then w else 0)

/-- R88: job decode is total, and reserved bits are ignored. -/
def Obligations.JobDecodeIsTotalAndIgnoresReservedBits : Prop :=
  ∀ (n : Nat) (cfg : Word), ∃ p : Pattern, p.code = cfg.extractLsb' 0 2 ∧
    ((cfg.extractLsb' 8 5).toNat ≤ 0x11 →
      ∃ f : Format, f.code = cfg.extractLsb' 8 5 ∧ decode (.job n cfg) = .ok (jobInstr n p f)) ∧
    (0x12 ≤ (cfg.extractLsb' 8 5).toNat →
      decode (.job n cfg) = .ok (.dmsUnsupported n (cfg.extractLsb' 8 5) p)) ∧
    ∀ cfg' : Word, cfg' &&& 0x1F03 = cfg &&& 0x1F03 → decode (.job n cfg') = decode (.job n cfg)

/-- R93: the encoding examples. -/
def Obligations.WrittenOutWordsDecode : Prop :=
  ∀ n : Nat,
    (decode (.job n 0x00000800) = .ok (.dmsRgb888 n .rggb) ∧ encode (.dmsRgb888 n .rggb) = .job n 0x00000800 ∧
      packCfg 0x08 .rggb = 0x00000800) ∧
    (decode (.job n 0x00000B03) = .ok (.dmsI420 n .grbg) ∧ encode (.dmsI420 n .grbg) = .job n 0x00000B03 ∧
      packCfg 0x0B .grbg = 0x00000B03) ∧
    (decode (.job n 0x00001001) = .ok (.dmsYuy2 n .bggr) ∧ encode (.dmsYuy2 n .bggr) = .job n 0x00001001 ∧
      packCfg 0x10 .bggr = 0x00001001) ∧
    (decode (.job n 0x00001102) = .ok (.dmsI444 n .gbrg) ∧ encode (.dmsI444 n .gbrg) = .job n 0x00001102 ∧
      packCfg 0x11 .gbrg = 0x00001102) ∧
    (decode (.job n 0x00001F00) = .ok (.dmsUnsupported n 0x1F .rggb) ∧
      encode (.dmsUnsupported n 0x1F .rggb) = .job n 0x00001F00 ∧ packCfg 0x1F .rggb = 0x00001F00) ∧
    (decode (.mmio n 0x118 4 0x00000004) = .ok (.wrWidth n 0x00000004) ∧
      encode (.wrWidth n 0x00000004) = .mmio n 0x118 4 0x00000004) ∧
    (decode (.mmio n 0x004 4 0) = .ok (.rdStatus n) ∧ encode (.rdStatus n) = .mmio n 0x004 4 0) ∧
    (decode (.mmio n 0x100 4 0x00000001) = .ok (.wrCtrl n 0x00000001) ∧
      encode (.wrCtrl n 0x00000001) = .mmio n 0x100 4 0x00000001)

/-- R215, R90: a transaction with OFFSET[1:0] not 0b00 or a size other than 32 bits. That a refused write leaves RDATA and
the draw counter, and that a refused read's data is free, is the model's choice (assumption 3). -/
def Obligations.IllegalTransactionSetsOnlyTheMark : Prop :=
  (∀ (s : State) (t : Transaction) (rest : List Move) (n : Nat) (o : BitVec 8),
    s.agenda = .host (.transact t) :: rest → routeFrom t.addr 0 s.insts = some (n, o) →
    (t.size ≠ 4 ∨ o.toNat % 4 ≠ 0) →
    ∃ u : State, step s = .next u ∧ u.refused = true ∧ u.insts = s.insts ∧ u.mem = s.mem ∧ u.faults = s.faults ∧
      u.params = s.params ∧ u.hostByte = s.hostByte ∧ u.agenda = rest ∧
      (t.write = true → u.rdata = s.rdata ∧ u.draws = s.draws)) ∧
  ∀ s t : State, step s = .next t → s.refused = true → t.refused = true

/-! ## Register reads -/

/-- R181, R187, R189, R191, R193, R195, R197, R199: register reads. -/
def Obligations.RegisterReadsReturnTheirWords : Prop :=
  ∀ (s : State) (n : Nat) (e : Engine), s.insts[n]? = some e →
    exec (.rdCtrl n) s = .next { s with rdata := if e.irqEn = true then 0x00000002 else 0x00000000 } ∧
    exec (.rdCfg n) s = .next { s with rdata := BitVec.ofNat 32 (e.format.toNat * 256 + e.pattern.code.toNat) } ∧
    exec (.rdRawAddr n) s = .next { s with rdata := e.rawAddr } ∧
    exec (.rdRawStride n) s = .next { s with rdata := e.rawStride } ∧
    exec (.rdWidth n) s = .next { s with rdata := e.width } ∧
    exec (.rdHeight n) s = .next { s with rdata := e.height } ∧
    exec (.rdDstAddr n) s = .next { s with rdata := e.dstAddr } ∧
    ∀ o : BitVec 8, exec (.rdRsvd n o) s = .next { s with rdata := 0x00000000 }

/-- R183, R185, R86: the status and result registers as read; R25: BUSY and DONE never hold at once. -/
def Obligations.StatusAndResultReads : Prop :=
  ∀ (s : State) (n : Nat) (e : Engine), s.insts[n]? = some e →
    (∃ w : Word, exec (.rdStatus n) s = .next { s with rdata := w } ∧
      w = (if e.done = true then 2 else 0) + (if e.busy = true then 1 else 0) ∧ (e.Inv s.params → w ≠ 3)) ∧
    ∃ w : Word, exec (.rdResult n) s = .next { s with rdata := w } ∧ (e.code = .success → w = 0) ∧
      (e.code = .nullPointer → w = 1) ∧ (e.code = .unsupportedFormat → w = 2)

/-! ## Register writes -/

/-- R188, R190, R192, R194, R196, R198: the configuration writes while BUSY = 0. -/
def Obligations.ConfigWritesStoreWhenIdle : Prop :=
  ∀ (s : State) (n : Nat) (e : Engine) (w : Word), s.insts[n]? = some e → e.busy = false →
    (∃ p : Pattern, p.code = w.extractLsb' 0 2 ∧
      exec (.wrCfg n w) s =
        .next { s with insts := s.insts.set n { e with format := w.extractLsb' 8 5, pattern := p } }) ∧
    exec (.wrRawAddr n w) s = .next { s with insts := s.insts.set n { e with rawAddr := w } } ∧
    exec (.wrRawStride n w) s = .next { s with insts := s.insts.set n { e with rawStride := w } } ∧
    exec (.wrWidth n w) s = .next { s with insts := s.insts.set n { e with width := w } } ∧
    exec (.wrHeight n w) s = .next { s with insts := s.insts.set n { e with height := w } } ∧
    exec (.wrDstAddr n w) s = .next { s with insts := s.insts.set n { e with dstAddr := w } }

/-- R238: configuration writes while BUSY are ignored. -/
def Obligations.ConfigWritesIgnoredWhileBusy : Prop :=
  ∀ (s : State) (n : Nat) (e : Engine) (w : Word), s.insts[n]? = some e → e.busy = true →
    exec (.wrCfg n w) s = .next s ∧ exec (.wrRawAddr n w) s = .next s ∧ exec (.wrRawStride n w) s = .next s ∧
    exec (.wrWidth n w) s = .next s ∧ exec (.wrHeight n w) s = .next s ∧ exec (.wrDstAddr n w) s = .next s

/-- R160, R182, R236: START acceptance. That `raced` is cleared and `clash` set belongs to the model's records of R65 and
R70 (assumption 8, DEDUCED). -/
def Obligations.StartAcceptedExactlyWhenIdle : Prop :=
  ∀ (s : State) (n : Nat) (e : Engine) (w : Word), s.insts[n]? = some e →
    ((w.getLsbD 0 = true ∧ e.busy = false) → ∃ (l : List Engine) (fps : List Footprint),
      exec (.wrCtrl n w) s = .next { s with insts := l } ∧ l.length = s.insts.length ∧
      l[n]? = some { e with irqEn := w.getLsbD 1, busy := true, done := false, phase := .validate,
                            raced := false, clash := fps } ∧
      ∀ (m : Nat) (d : Engine), m ≠ n → s.insts[m]? = some d →
        ∃ gps : List Footprint, l[m]? = some { d with clash := gps } ∧ (d.busy = false → gps = d.clash)) ∧
    ((w.getLsbD 0 = false ∨ e.busy = true) →
      exec (.wrCtrl n w) s = .next { s with insts := s.insts.set n { e with irqEn := w.getLsbD 1 } })

/-- R184: DONE is W1C and BUSY is not writable. -/
def Obligations.WriteStatusClearsDone : Prop :=
  ∀ (s : State) (n : Nat) (e : Engine) (w : Word), s.insts[n]? = some e →
    exec (.wrStatus n w) s = .next { s with insts := s.insts.set n { e with done := e.done && !w.getLsbD 1 } }

/-- R186, R200: accepted and ignored. -/
def Obligations.IgnoredWritesChangeNothing : Prop :=
  ∀ (s : State) (n : Nat) (e : Engine) (w : Word) (o : BitVec 8), s.insts[n]? = some e →
    exec (.wrResult n w) s = .next s ∧ exec (.wrRsvd n o w) s = .next s

/-- R219, R34, R241: the level interrupt output. -/
def Obligations.InterruptOutputIsDoneAndEnable : Prop :=
  (∀ e : Engine, e.irq = (e.done && e.irqEn)) ∧
  (∀ (code : ResultCode) (e : Engine), (Engine.completed code e).irq = e.irqEn) ∧
  (∀ base : Word, (Engine.reset base).irq = false) ∧
  ∀ (s t : State) (n : Nat) (e e' : Engine) (w : Word), s.insts[n]? = some e → t.insts[n]? = some e' →
    (exec (.wrStatus n w) s = .next t → w.getLsbD 1 = true → e'.irq = false) ∧
    (exec (.wrCtrl n w) s = .next t →
      e'.irq = (if w.getLsbD 0 = true ∧ e.busy = false then false else e.done && w.getLsbD 1))

/-! ## VALIDATE and completion -/

/-- R210, R161, R176: the null check comes first. R65, R239: a host race makes DstFP draws at completion, whatever the code.
The records `raced` and `clash` are assumption 8 (DEDUCED), the footprint of such a job assumption 12 (DEDUCED). -/
def Obligations.NullReferenceEndsWithNullPointer : Prop :=
  ∀ (s : State) (n : Nat) (e : Engine) (p : Pattern), s.insts[n]? = some e → e.phase = .validate →
    (e.rawAddr = 0 ∨ e.dstAddr = 0) →
    let e' : Engine := { e with code := .nullPointer, busy := false, done := true, phase := .idle,
                                raced := false, clash := [] }
    (∀ c : BitVec 5, exec (.dmsUnsupported n c p) s = .next { s with insts := s.insts.set n e' }) ∧
    (∀ fmt : Format, e.raced = false → exec (jobInstr n p fmt) s = .next { s with insts := s.insts.set n e' }) ∧
    ∀ fmt : Format, e.raced = true → s.mem.wf →
      let D := e.dstAddr.toNat; let size := formatSize fmt e.frame
      ∃ m : Memory, exec (jobInstr n p fmt) s =
          .next { s with insts := s.insts.set n e', mem := m, draws := s.draws + size } ∧ m.wf ∧
        ∀ a, m.read a =
          if D ≤ a ∧ a < D + size ∧ a < 2 ^ 32 then Config.draw8 (s.draws + (a - D)) else s.mem.read a

/-- R211, R85, R161: a reserved format is a result code, not a fault. That `raced` and `clash` end with the job is
assumption 8 (DEDUCED), that such a job has no byte of DstFP to draw assumption 12 (DEDUCED). -/
def Obligations.ReservedFormatEndsWithUnsupportedFormat : Prop :=
  (∀ (s : State) (n : Nat) (e : Engine) (p : Pattern) (c : BitVec 5), s.insts[n]? = some e → e.phase = .validate →
    e.rawAddr ≠ 0 → e.dstAddr ≠ 0 →
    exec (.dmsUnsupported n c p) s =
      .next { s with insts := s.insts.set n { e with code := .unsupportedFormat, busy := false, done := true,
                                                     phase := .idle, raced := false, clash := [] } }) ∧
  ∀ (n : Nat) (e : Engine), 0x12 ≤ e.format.toNat ↔ Engine.jobInstr n e = .dmsUnsupported n e.format e.pattern

/-- R162, R58, R60, R161, R214: the fault predicates of VALIDATE. -/
def Obligations.ValidationRecordsEveryViolation : Prop :=
  ∀ (s : State) (n : Nat) (e : Engine) (p : Pattern) (fmt : Format), s.insts[n]? = some e → e.phase = .validate →
    e.rawAddr ≠ 0 → e.dstAddr ≠ 0 →
    let A := e.rawAddr.toNat; let P := e.rawStride.toNat; let W := e.width.toNat; let H := e.height.toNat
    let D := e.dstAddr.toNat; let size := formatSize fmt e.frame
    let cols := if s.params.edgeRight = .draw then W else W + 2
    let geo := W % 2 = 1 ∨ H % 2 = 1 ∨ W = 0 ∨ H = 0
    let wrap := ¬geo ∧ (D + size > 2 ^ 32 ∨ A + (H - 1) * P + (cols - 1) ≥ 2 ^ 32)
    let overlap := ¬geo ∧ ∃ r c, r < H ∧ c < cols ∧ D ≤ A + r * P + c ∧ A + r * P + c < D + size
    (geo ∨ P < W ∨ wrap ∨ overlap) →
    ∃ F : FaultSet, (F.geometry = true ↔ geo) ∧ (F.stride = true ↔ P < W) ∧ (F.wrap = true ↔ wrap) ∧
      (F.overlap = true ↔ overlap) ∧ F.mem = false ∧
      exec (jobInstr n p fmt) s =
        .next { s with insts := s.insts.set n { e with phase := .faulted }, faults := s.faults.union F }

/-- R163, R161, R101, R102: entry to ROWS. -/
def Obligations.ValidJobEntersRows : Prop :=
  ∀ (s : State) (n : Nat) (e : Engine) (p : Pattern) (fmt : Format), s.insts[n]? = some e → e.phase = .validate →
    e.rawAddr ≠ 0 → e.dstAddr ≠ 0 →
    let A := e.rawAddr.toNat; let P := e.rawStride.toNat; let W := e.width.toNat; let H := e.height.toNat
    let D := e.dstAddr.toNat; let size := formatSize fmt e.frame
    let cols := if s.params.edgeRight = .draw then W else W + 2
    W % 2 = 0 → H % 2 = 0 → 2 ≤ W → 2 ≤ H → W ≤ P → D + size ≤ 2 ^ 32 → A + (H - 1) * P + cols ≤ 2 ^ 32 →
    (∀ r c, r < H → c < cols → ¬(D ≤ A + r * P + c ∧ A + r * P + c < D + size)) →
    let q := if fmt = .bgr888 then swapRB p else p
    exec (jobInstr n p fmt) s = .next { s with
      insts := s.insts.set n { e with phase := .rows, physPattern := q, geom := deriveTile q, k := 0, c := 0 } }

/-- R225: an idle instance does nothing until a START; R214: a FAULTED instance takes no further engine step. -/
def Obligations.IdleAndFaultedInstancesTakeNoStep : Prop :=
  ∀ (s : State) (n : Nat) (e : Engine) (p : Pattern), s.insts[n]? = some e → (e.phase = .idle ∨ e.phase = .faulted) →
    (∀ fmt : Format, exec (jobInstr n p fmt) s = .next s) ∧ ∀ c : BitVec 5, exec (.dmsUnsupported n c p) s = .next s

/-! ## Tile model and kernel -/

/-- R83, R100, R101, R102: the tile geometry at the start of a job. -/
def Obligations.TileTableAndChannelSwap : Prop :=
  deriveTile .rggb = { redRow := 0, redCol := 0, blueRow := 1, blueCol := 1, redIdx := 0, blueIdx := 1 } ∧
  deriveTile .bggr = { redRow := 1, redCol := 1, blueRow := 0, blueCol := 0, redIdx := 1, blueIdx := 0 } ∧
  deriveTile .gbrg = { redRow := 1, redCol := 0, blueRow := 0, blueCol := 1, redIdx := 1, blueIdx := 0 } ∧
  deriveTile .grbg = { redRow := 0, redCol := 1, blueRow := 1, blueCol := 0, redIdx := 0, blueIdx := 1 } ∧
  (∀ p : Pattern, (swapRB p).code = p.code ^^^ 1 ∧ swapRB (swapRB p) = p) ∧
  ∀ (p : Pattern) (fmt : Format), physPatternOf fmt p = if fmt = .bgr888 then swapRB p else p

/-- R104: closed form of the row references. -/
def Obligations.RowReferencesClosedForm : Prop :=
  ∀ (p : Pattern) (k : Nat), k + 1 < 2 ^ 32 →
    (rowGeometry p k).redRow = (patternTable p).redRow ∧ (rowGeometry p k).blueRow = (patternTable p).blueRow ∧
    (rowGeometry p k).redCol = (patternTable p).redCol ∧ (rowGeometry p k).blueCol = (patternTable p).blueCol ∧
    (rowGeometry p k).redIdx.toNat = (if k % 2 = (patternTable p).redRow.toNat then k else k + 1) ∧
    (rowGeometry p k).blueIdx.toNat = (if k % 2 = (patternTable p).blueRow.toNat then k else k + 1)

/-- R111: ROUND_AVG. -/
def Obligations.RoundAverageIsTheRoundedMean : Prop :=
  ∀ a b : Byte, (roundAverage a b).toNat = (a.toNat + b.toNat + 1) >>> 1 ∧ roundAverage a b = roundAverage b a ∧
    min a.toNat b.toNat ≤ (roundAverage a b).toNat ∧ (roundAverage a b).toNat ≤ max a.toNat b.toNat

/-- R110, R112, R113, R114, R70: the two triples of a column pair, in terms of the data space. The record `clash` is
assumption 8. -/
def Obligations.KernelReadsTheTwoByTwoBlock : Prop :=
  ∀ (s : State) (e : Engine),
    (∀ a ∈ pairReads s.params e.frame e.advanced.geom e.c.toNat, ∀ fp ∈ e.clash, fp.inDst a = false) →
    let g := e.advanced.geom
    let S : Word → Nat → Byte := fun r c => s.mem.read (e.rawAddr.toNat + r.toNat * e.rawStride.toNat + c)
    let cellAt : Nat → Triple := fun j =>
      { r := S g.redIdx (j + g.redCol.toNat), b := S g.blueIdx (j + g.blueCol.toNat),
        g := roundAverage (S g.redIdx (j + g.blueCol.toNat)) (S g.blueIdx (j + g.redCol.toNat)) }
    s.leftOf e = cellAt e.c.toNat ∧
    (e.c.toNat + 4 ≤ e.width.toNat → s.rightOf e = cellAt (e.c.toNat + 2)) ∧
    (e.width.toNat < e.c.toNat + 4 →
      (s.params.edgeRight = .draw → ∃ i j l, i ≠ j ∧ j ≠ l ∧ i ≠ l ∧ s.draws ≤ min i (min j l) ∧
        max i (max j l) < s.draws + 11 ∧
        s.rightOf e = { r := Config.draw8 i, g := Config.draw8 j, b := Config.draw8 l }) ∧
      (s.params.edgeRight = .reference → s.rightOf e = cellAt e.width.toNat))

/-- R117: channel-swap identity of the kernel. -/
def Obligations.ChannelSwapIdentityOfCells : Prop :=
  ∀ (m : Memory) (f : Frame) (p : Pattern) (k j i i' : Nat),
    let src : Nat → Nat → Byte := fun _ a => m.read a
    cell src f (rowGeometry (swapRB p) k) i j =
      { r := (cell src f (rowGeometry p k) i' j).b, g := (cell src f (rowGeometry p k) i' j).g,
        b := (cell src f (rowGeometry p k) i' j).r }

/-- R116, R106, R115: exactness as the formulas give it. The cell at an even column x is output pixel (k, x); the cell at x + 1 is the interior odd pixel (k, x). -/
def Obligations.NativeSamplesAreExactAtEvenColumns : Prop :=
  ∀ (m : Memory) (f : Frame) (p : Pattern) (k j : Nat), k + 1 < 2 ^ 32 →
    let S : Nat → Nat → Byte := fun r c => m.read (f.A + r * f.P + c)
    let t := cell (fun _ a => m.read a) f (rowGeometry p k) 0 j
    let q := patternTable p
    (k % 2 = q.redRow.toNat → t.r = S k (j + q.redCol.toNat) ∧ t.b = S (k + 1) (j + q.blueCol.toNat) ∧
      (q.redCol = 0 → t.g = roundAverage (S k (j + 1)) (S (k + 1) j)) ∧
      (q.redCol = 1 → t.g = roundAverage (S k j) (S (k + 1) (j + 1)))) ∧
    (k % 2 = q.blueRow.toNat → t.b = S k (j + q.blueCol.toNat) ∧ t.r = S (k + 1) (j + q.redCol.toNat) ∧
      (q.blueCol = 0 → t.g = roundAverage (S k (j + 1)) (S (k + 1) j)) ∧
      (q.blueCol = 1 → t.g = roundAverage (S k j) (S (k + 1) (j + 1))))

/-- R140: colour conversion. -/
def Obligations.YuvConversionFitsAByte : Prop :=
  ∀ t : Triple,
    let R : Int := t.r.toNat; let G : Int := t.g.toNat; let B : Int := t.b.toNat
    let y := 66 * R + 129 * G + 25 * B + 128
    let u := -38 * R - 74 * G + 112 * B + 128
    let v := 112 * R - 94 * G - 18 * B + 128
    (128 ≤ y ∧ y ≤ 56228 ∧ -28432 ≤ u ∧ u ≤ 28688 ∧ -28432 ≤ v ∧ v ≤ 28688) ∧
    (((luma t).toNat : Int) = y.fdiv 256 + 16 ∧ 16 ≤ (luma t).toNat ∧ (luma t).toNat ≤ 235) ∧
    (((chromaU t).toNat : Int) = u.fdiv 256 + 128 ∧ 16 ≤ (chromaU t).toNat ∧ (chromaU t).toNat ≤ 240) ∧
    (((chromaV t).toNat : Int) = v.fdiv 256 + 128 ∧ 16 ≤ (chromaV t).toNat ∧ (chromaV t).toNat ≤ 240)

/-! ## One column pair, format by format -/

/-- R120, R121, R165: DMS.ALPHA8 stores 0xFF for both pixels. -/
def Obligations.Alpha8PairIsOpaque : Prop :=
  ∀ (s : State) (n : Nat) (e : Engine) (p : Pattern),
    StoresRgbPair (.dmsAlpha8 n p) 1 (fun _ => 0xFF) s n e

/-- R120, R122, R125, R165: DMS.ARGB8888 and DMS.RGBA8888 store 32-bit words. -/
def Obligations.Rgb32PairsStoreTheirWords : Prop :=
  ∀ (s : State) (n : Nat) (e : Engine) (p : Pattern),
    StoresRgbPair (.dmsArgb8888 n p) 4 (fun t => 0xFF * 2 ^ 24 + t.r.toNat * 2 ^ 16 + t.g.toNat * 2 ^ 8 + t.b.toNat) s n e ∧
    StoresRgbPair (.dmsRgba8888 n p) 4 (fun t => t.r.toNat * 2 ^ 24 + t.g.toNat * 2 ^ 16 + t.b.toNat * 2 ^ 8 + 0xFF) s n e

/-- R120, R123, R124, R165: DMS.ARGB4444 and DMS.ARGB1555 store 16-bit words. -/
def Obligations.AlphaFirst16BitPairsStoreTheirWords : Prop :=
  ∀ (s : State) (n : Nat) (e : Engine) (p : Pattern),
    StoresRgbPair (.dmsArgb4444 n p) 2 (fun t => 0xF * 2 ^ 12 + t.r.toNat / 16 * 2 ^ 8 + t.g.toNat / 16 * 2 ^ 4 + t.b.toNat / 16) s n e ∧
    StoresRgbPair (.dmsArgb1555 n p) 2 (fun t => 2 ^ 15 + t.r.toNat / 8 * 2 ^ 10 + t.g.toNat / 8 * 2 ^ 5 + t.b.toNat / 8) s n e

/-- R120, R126, R127, R165: DMS.RGBA4444 and DMS.RGBA5551 store 16-bit words. -/
def Obligations.AlphaLast16BitPairsStoreTheirWords : Prop :=
  ∀ (s : State) (n : Nat) (e : Engine) (p : Pattern),
    StoresRgbPair (.dmsRgba4444 n p) 2 (fun t => t.r.toNat / 16 * 2 ^ 12 + t.g.toNat / 16 * 2 ^ 8 + t.b.toNat / 16 * 2 ^ 4 + 0xF) s n e ∧
    StoresRgbPair (.dmsRgba5551 n p) 2 (fun t => t.r.toNat / 8 * 2 ^ 11 + t.g.toNat / 8 * 2 ^ 6 + t.b.toNat / 8 * 2 + 1) s n e

/-- R120, R130, R165: DMS.RGB565 stores 16-bit words. -/
def Obligations.Rgb565PairStoresItsWords : Prop :=
  ∀ (s : State) (n : Nat) (e : Engine) (p : Pattern),
    StoresRgbPair (.dmsRgb565 n p) 2 (fun t => t.r.toNat / 8 * 2 ^ 11 + t.g.toNat / 4 * 2 ^ 5 + t.b.toNat / 8) s n e

/-- R120, R128, R129, R165: DMS.RGB888 and DMS.BGR888 store 24-bit words. -/
def Obligations.Rgb24PairsStoreTheirWords : Prop :=
  ∀ (s : State) (n : Nat) (e : Engine) (p : Pattern),
    StoresRgbPair (.dmsRgb888 n p) 3 (fun t => t.r.toNat * 2 ^ 16 + t.g.toNat * 2 ^ 8 + t.b.toNat) s n e ∧
    StoresRgbPair (.dmsBgr888 n p) 3 (fun t => t.r.toNat * 2 ^ 16 + t.g.toNat * 2 ^ 8 + t.b.toNat) s n e

/-- R144, R145, R141, R142, R143: the planar 4:2:0 layouts. -/
def Obligations.Planar420PairsStoreTheirBytes : Prop :=
  ∀ (s : State) (n : Nat) (e : Engine) (p : Pattern),
    let W := e.width.toNat; let H := e.height.toNat; let D := e.dstAddr.toNat
    let k := e.k.toNat; let c := e.c.toNat; let l := s.leftOf e; let r := s.rightOf e
    let ys : List Host.Cell := [(D + k * W + c, luma l), (D + k * W + c + 1, luma r)]
    let first := D + W * H + k / 2 * (W / 2) + c / 2
    let second := D + W * H + W / 2 * (H / 2) + k / 2 * (W / 2) + c / 2
    StoresYuvPair (.dmsYv12 n p) s n e
      (if k % 2 = 0 then ys ++ [(first, chromaV l), (second, chromaU l)] else ys) ∧
    StoresYuvPair (.dmsI420 n p) s n e
      (if k % 2 = 0 then ys ++ [(first, chromaU l), (second, chromaV l)] else ys)

/-- R146, R147, R141, R142, R143: the semi-planar 4:2:0 layouts. -/
def Obligations.SemiPlanar420PairsStoreTheirBytes : Prop :=
  ∀ (s : State) (n : Nat) (e : Engine) (p : Pattern),
    let W := e.width.toNat; let H := e.height.toNat; let D := e.dstAddr.toNat
    let k := e.k.toNat; let c := e.c.toNat; let l := s.leftOf e; let r := s.rightOf e
    let ys : List Host.Cell := [(D + k * W + c, luma l), (D + k * W + c + 1, luma r)]
    let uv := D + W * H + k / 2 * W + c
    StoresYuvPair (.dmsNv12 n p) s n e
      (if k % 2 = 0 then ys ++ [(uv, chromaU l), (uv + 1, chromaV l)] else ys) ∧
    StoresYuvPair (.dmsNv21 n p) s n e
      (if k % 2 = 0 then ys ++ [(uv, chromaV l), (uv + 1, chromaU l)] else ys)

/-- R148, R141, R142, R143: the planar 4:2:2 layout. -/
def Obligations.I422PairStoresItsBytes : Prop :=
  ∀ (s : State) (n : Nat) (e : Engine) (p : Pattern),
    let W := e.width.toNat; let H := e.height.toNat; let D := e.dstAddr.toNat
    let k := e.k.toNat; let c := e.c.toNat; let l := s.leftOf e; let r := s.rightOf e
    let ys : List Host.Cell := [(D + k * W + c, luma l), (D + k * W + c + 1, luma r)]
    StoresYuvPair (.dmsI422 n p) s n e
      (ys ++ [(D + W * H + k * (W / 2) + c / 2, chromaU l), (D + W * H + W / 2 * H + k * (W / 2) + c / 2, chromaV l)])

/-- R149, R150, R141, R142: the packed 4:2:2 layouts. -/
def Obligations.Packed422PairsStoreTheirMacropixels : Prop :=
  ∀ (s : State) (n : Nat) (e : Engine) (p : Pattern),
    let W := e.width.toNat; let D := e.dstAddr.toNat
    let k := e.k.toNat; let c := e.c.toNat; let l := s.leftOf e; let r := s.rightOf e
    let a := D + (k * W + c) * 2
    StoresYuvPair (.dmsUyvy n p) s n e [(a, chromaU l), (a + 1, luma l), (a + 2, chromaV l), (a + 3, luma r)] ∧
    StoresYuvPair (.dmsYuy2 n p) s n e [(a, luma l), (a + 1, chromaU l), (a + 2, luma r), (a + 3, chromaV l)]

/-- R151, R141, R142, R143: the planar 4:4:4 layout. -/
def Obligations.I444PairStoresItsBytes : Prop :=
  ∀ (s : State) (n : Nat) (e : Engine) (p : Pattern),
    let W := e.width.toNat; let H := e.height.toNat; let D := e.dstAddr.toNat
    let k := e.k.toNat; let c := e.c.toNat; let l := s.leftOf e; let r := s.rightOf e
    let ys : List Host.Cell := [(D + k * W + c, luma l), (D + k * W + c + 1, luma r)]
    let u := D + W * H + k * W + c
    let v := D + 2 * W * H + k * W + c
    StoresYuvPair (.dmsI444 n p) s n e
      (ys ++ [(u, chromaU l), (u + 1, chromaU r), (v, chromaV l), (v + 1, chromaV r)])

/-- R165, R164, R103: where a pair step leaves the instance. -/
def Obligations.PairCountersAdvance : Prop :=
  ∀ e : Engine,
    let g : TileGeometry :=
      if e.c = 0 ∧ 1 ≤ e.k.toNat then
        { e.geom with
          redIdx := if (e.k.toNat + e.geom.blueRow.toNat) % 2 = 0 then e.geom.redIdx + 2 else e.geom.redIdx
          blueIdx := if (e.k.toNat + e.geom.redRow.toNat) % 2 = 0 then e.geom.blueIdx + 2 else e.geom.blueIdx }
      else e.geom
    e.advanced.nextPair =
      if e.c.toNat + 4 ≤ e.width.toNat then { e with geom := g, c := e.c + 2 }
      else if e.k.toNat + 3 ≤ e.height.toNat then { e with geom := g, k := e.k + 1, c := 0 }
      else { e with geom := g, phase := .border, plane := 0 }

/-- R53, R54, R170, R212, R214: F_MEM at the first refused access; no later access is made. That the reads of a pair come
before its stores, that the stores go in the sink's order and that those before a refused one stay is assumption 13
(DEDUCED; R65 leaves the order open). -/
def Obligations.RefusedAccessFaultsTheInstance : Prop :=
  (∀ (s : State) (n : Nat) (e : Engine) (p : Pattern) (fmt : Format), s.insts[n]? = some e → e.phase = .rows →
    (pairReads s.params e.frame e.advanced.geom e.c.toNat).all (canRead s.params) = false →
    exec (jobInstr n p fmt) s =
      .next { s with insts := s.insts.set n { e.advanced with phase := .faulted }
                     faults := { s.faults with mem := true } }) ∧
  (∀ (s : State) (n : Nat) (e : Engine) (p : Pattern) (fmt : Format) (before after : List Host.Cell) (x : Host.Cell),
    s.PairReady n e →
    sink fmt e.frame e.k.toNat e.c.toNat (s.leftOf e) (s.rightOf e) = before ++ x :: after →
    (∀ y ∈ before, canWrite s.params y.1 = true) → canWrite s.params x.1 = false →
    ∃ m : Memory, exec (jobInstr n p fmt) s =
        .next { s with insts := s.insts.set n { e.advanced with phase := .faulted }, mem := m,
                       draws := s.draws + 11, faults := { s.faults with mem := true } } ∧
      m.wf ∧ (∀ a, (∀ y ∈ before, y.1 ≠ a) → m.read a = s.mem.read a) ∧
      (before.Pairwise (fun y z => y.1 ≠ z.1) → ∀ y ∈ before, m.read y.1 = y.2)) ∧
  ∀ (s : State) (n : Nat) (e : Engine) (p : Pattern) (fmt : Format) (r : RowCopy) (i : Nat), s.insts[n]? = some e →
    e.phase = .border → s.mem.wf → (borderPlanes s.params fmt e.frame)[e.plane]? = some r → i < r.pitch →
    let src := r.base + r.src * r.pitch; let dst := r.base + r.dst * r.pitch
    (∀ j < i, canRead s.params (src + j) = true ∧ canWrite s.params (dst + j) = true) →
    (canRead s.params (src + i) = false ∨ canWrite s.params (dst + i) = false) →
    ∃ m : Memory, exec (jobInstr n p fmt) s =
        .next { s with insts := s.insts.set n { e with phase := .faulted }, mem := m,
                       faults := { s.faults with mem := true } } ∧
      m.wf ∧ (∀ j < i, m.read (dst + j) = s.mem.read (src + j)) ∧
      ∀ a, (a < dst ∨ dst + i ≤ a) → m.read a = s.mem.read a

/-- R172, R173, R174: the vectorized execution strategy. R174 excepts the edge draws; that they agree here is the model's
draw counter (assumption 2). The lane order of a group that meets a refused access is assumption 13. -/
def Obligations.GroupStepEqualsPairSteps : Prop :=
  ∀ (s t : State) (n : Nat) (e : Engine) (p : Pattern) (fmt : Format), s.insts[n]? = some e → e.Inv s.params →
    e.phase = .rows → exec (jobInstr n p fmt) s = .next t →
    execTimes (jobInstr n p fmt) (min (groupSize s.params.groupPairs) ((e.width.toNat - e.c.toNat) / 2))
      { s with params := { s.params with groupPairs := .one } } =
        .next { t with params := { t.params with groupPairs := .one } }

/-! ## BORDER and completion -/

/-- R170, R131, R152: one step per plane of the format's list. -/
def Obligations.BorderStepCopiesOneRow : Prop :=
  ∀ (s : State) (n : Nat) (e : Engine) (p : Pattern) (fmt : Format) (r : RowCopy), s.insts[n]? = some e →
    e.phase = .border → s.mem.wf → (borderPlanes s.params fmt e.frame)[e.plane]? = some r →
    (∀ i < r.pitch, canRead s.params (r.base + r.src * r.pitch + i) = true ∧
      canWrite s.params (r.base + r.dst * r.pitch + i) = true) →
    ∃ m : Memory, exec (jobInstr n p fmt) s =
        .next { s with insts := s.insts.set n { e with plane := e.plane + 1 }, mem := m } ∧ m.wf ∧
      (∀ i < r.pitch, m.read (r.base + r.dst * r.pitch + i) = s.mem.read (r.base + r.src * r.pitch + i)) ∧
      ∀ a, (a < r.base + r.dst * r.pitch ∨ r.base + r.dst * r.pitch + r.pitch ≤ a) → m.read a = s.mem.read a

/-- R176, R64, R170: completion. -/
def Obligations.CompletionReportsSuccess : Prop :=
  ∀ (s : State) (n : Nat) (e : Engine) (p : Pattern) (fmt : Format), s.insts[n]? = some e → e.phase = .border →
    (borderPlanes s.params fmt e.frame).length ≤ e.plane → e.raced = false → e.clash = [] →
    exec (jobInstr n p fmt) s =
      .next { s with insts := s.insts.set n { e with code := .success, busy := false, done := true, phase := .idle } }

/-- R65, R239: the host race. A free value holds whatever it is (assumption 2). -/
def Obligations.RaceMakesDestinationFree : Prop :=
  ∀ (s : State) (n : Nat) (e : Engine) (p : Pattern) (fmt : Format), s.insts[n]? = some e → e.phase = .border →
    s.mem.wf → (borderPlanes s.params fmt e.frame).length ≤ e.plane → e.raced = true →
    let D := e.dstAddr.toNat; let size := formatSize fmt e.frame
    ∃ m : Memory, exec (jobInstr n p fmt) s =
        .next { s with insts := s.insts.set n { e with code := .success, busy := false, done := true, phase := .idle,
                                                       raced := false, clash := [] },
                       mem := m, draws := s.draws + size } ∧ m.wf ∧
      ∀ a, m.read a =
        if D ≤ a ∧ a < D + size ∧ a < 2 ^ 32 then Config.draw8 (s.draws + (a - D)) else s.mem.read a

/-- R171, R170, R131, R152, R176: border replication, for every format. -/
def Obligations.BorderReplicatesTheLastRow : Prop :=
  ∀ (s : State) (n : Nat) (e : Engine) (p : Pattern) (fmt : Format), s.Inv → s.insts[n]? = some e →
    formatOfCode e.format = some fmt → e.phase = .border → e.plane = 0 → s.params.AdmitsAll → e.raced = false →
    e.clash = [] →
    ∃ m : Memory, execTimes (jobInstr n p fmt) ((borderPlanes s.params fmt e.frame).length + 1) s =
        .next { s with insts := s.insts.set n { e with code := .success, busy := false, done := true, phase := .idle,
                                                       plane := (borderPlanes s.params fmt e.frame).length },
                       mem := m } ∧
      (∀ r ∈ borderPlanes s.params fmt e.frame, ∀ i < r.pitch,
        m.read (r.base + r.dst * r.pitch + i) = s.mem.read (r.base + r.src * r.pitch + i) ∧
        m.read (r.base + r.src * r.pitch + i) = s.mem.read (r.base + r.src * r.pitch + i)) ∧
      ∀ a, (∀ r ∈ borderPlanes s.params fmt e.frame,
          a < r.base + r.dst * r.pitch ∨ r.base + r.dst * r.pitch + r.pitch ≤ a) → m.read a = s.mem.read a

/-! ## Whole jobs -/

/-- R177, R168, R169: termination, with the step count. -/
def Obligations.ValidJobCompletesInCountedSteps : Prop :=
  ∀ (s : State) (n : Nat) (e : Engine) (p : Pattern) (fmt : Format), s.insts[n]? = some e → e.phase = .validate →
    e.Startable s.params fmt → s.params.AdmitsAll →
    ∃ (t : State) (e' : Engine), execTimes (jobInstr n p fmt) (jobSteps s.params fmt e.frame) s = .next t ∧
      t.insts = s.insts.set n e' ∧ e'.phase = .idle ∧ e'.busy = false ∧ e'.done = true ∧ e'.code = .success ∧
      e'.frame = e.frame ∧ e'.format = e.format ∧ e'.pattern = e.pattern ∧ e'.irqEn = e.irqEn ∧
      t.faults = s.faults ∧ t.params = s.params ∧ t.refused = s.refused ∧ t.agenda = s.agenda

/-- R56, R55, R58, R173: confinement, for every GROUP_PAIRS. -/
def Obligations.JobWritesOnlyItsDestination : Prop :=
  ∀ (s t : State) (n : Nat) (e : Engine) (fmt : Format), s.Inv → s.insts[n]? = some e →
    formatOfCode e.format = some fmt → exec (jobInstr n e.pattern fmt) s = .next t →
    (∀ a, (a < e.dstAddr.toNat ∨ e.dstAddr.toNat + formatSize fmt e.frame ≤ a) → t.mem.read a = s.mem.read a) ∧
    ∀ m, m ≠ n → t.insts[m]? = s.insts[m]?

/-- R105, R56, R57: the rows and columns a pair reads. -/
def Obligations.PairReadsLieInTheRawFootprint : Prop :=
  ∀ (p : Params) (e : Engine), e.Inv p → e.phase = .rows →
    ∀ a ∈ pairReads p e.frame e.advanced.geom e.c.toNat,
      ∃ r c, (r = e.k.toNat ∨ r = e.k.toNat + 1) ∧ r < e.height.toNat ∧
        c < (if p.edgeRight = .draw then e.width.toNat else e.width.toNat + 2) ∧
        a = e.rawAddr.toNat + r * e.rawStride.toNat + c ∧ a < 2 ^ 32

/-- R132, R128, R102: channel-swap identity at the destination. R132 excepts edge pixels under DRAW; they agree here only
because both steps start from the same draw counter (assumption 2). -/
def Obligations.ChannelSwapIdentityAtTheDestination : Prop :=
  ∀ (s : State) (n : Nat) (p : Pattern), exec (.dmsBgr888 n (swapRB p)) s = exec (.dmsRgb888 n p) s

/-- R121, R59, R168, R170: a whole job, its full coverage and its frame. -/
def Obligations.Alpha8JobFillsItsDestination : Prop :=
  ∀ (s : State) (n : Nat) (e : Engine) (p : Pattern), s.insts[n]? = some e → s.mem.wf → e.phase = .validate →
    e.Startable s.params .alpha8 → s.params.AdmitsAll → e.raced = false → e.clash = [] →
    ∃ t : State, execTimes (.dmsAlpha8 n p) (jobSteps s.params .alpha8 e.frame) s = .next t ∧
      ∀ a, t.mem.read a =
        if e.dstAddr.toNat ≤ a ∧ a < e.dstAddr.toNat + e.width.toNat * e.height.toNat then 0xFF else s.mem.read a

/-! ## The machine -/

/-- R180, R82, R89: one transaction is one step. The agenda is the model's own field (assumption 5). -/
def Obligations.StepRunsTheDecodedTransaction : Prop :=
  ∀ (s : State) (t : Transaction) (rest : List Move) (n : Nat) (o : BitVec 8),
    s.agenda = .host (.transact t) :: rest → routeFrom t.addr 0 s.insts = some (n, o) → t.size = 4 →
    o.toNat % 4 = 0 →
    ∃ i : Instr, decode (.mmio n (BitVec.ofBool t.write ++ o) 4 t.wdata) = .ok i ∧ i.wf = true ∧
      step s = exec i { s with agenda := rest }

/-- R80, R169, R177, R225: engine steps. That an empty agenda lets the first enabled instance run is the model's choice (assumption 5). -/
def Obligations.StepRunsTheJobOperation : Prop :=
  ∀ (s : State),
    (∀ (n : Nat) (e : Engine) (rest : List Move), s.agenda = .engine n :: rest → s.insts[n]? = some e →
      step s = exec (decodeJob n (packCfg e.format e.pattern)) { s with agenda := rest }) ∧
    (∀ (n : Nat) (e : Engine), s.agenda = [] → s.insts[n]? = some e → e.busy = true → e.phase ≠ .faulted →
      (∀ (m : Nat) (d : Engine), m < n → s.insts[m]? = some d → d.busy = false ∨ d.phase = .faulted) →
      step s = exec (decodeJob n (packCfg e.format e.pattern)) s) ∧
    (s.agenda = [] → (∀ d ∈ s.insts, d.busy = false ∨ d.phase = .faulted) → step s = .next s)

/-- R23, R180, R223: register windows. The spec gives each instance 0x100 bytes from ENGINE_BASE(i); three things here are the
model's choice (assumption 9, DESIGN CHOICE): ENGINE_BASE + OFFSET is taken modulo 2^32 (unsafe for a window less than
0x100 bytes below 2^32), of overlapping windows the instance with the lower number answers (unsafe), and a transaction
outside every window stops. -/
def Obligations.WindowsRouteTransactions : Prop :=
  (∀ (s : State) (n : Nat) (e : Engine) (o : BitVec 8), s.insts[n]? = some e →
    (∀ (m : Nat) (d : Engine), m < n → s.insts[m]? = some d → 0x100 ≤ (e.base + o.setWidth 32 - d.base).toNat) →
    routeFrom (e.base + o.setWidth 32) 0 s.insts = some (n, o)) ∧
  ∀ (s : State) (t : Transaction) (rest : List Move), s.agenda = .host (.transact t) :: rest →
    (∀ d ∈ s.insts, 0x100 ≤ (t.addr - d.base).toNat) →
    routeFrom t.addr 0 s.insts = none ∧ step s = .fault .noWindow

/-- R65, R239, R55, R50: host accesses to the data space. The free value is assumption 2, the mark assumption 8; the
footprints of a BUSY job that VALIDATE will refuse, a reserved FORMAT included, are assumption 12 (DEDUCED, unsafe); that
a host write is always performed is assumption 16 (DEDUCED). -/
def Obligations.HostAccessDuringAJob : Prop :=
  (∀ (s : State) (a : Word) (rest : List Move), s.agenda = .host (.readByte a) :: rest →
    ((∃ e ∈ s.insts, e.busy = true ∧ (e.footprint s.params).inDst a.toNat = true) →
      step s = .next { s with agenda := rest, hostByte := Config.draw8 s.draws, draws := s.draws + 1 }) ∧
    ((∀ e ∈ s.insts, e.busy = true → (e.footprint s.params).inDst a.toNat = false) →
      step s = .next { s with agenda := rest, hostByte := s.mem.read a.toNat })) ∧
  ∀ (s : State) (a : Word) (v : Byte) (rest : List Move), s.agenda = .host (.writeByte a v) :: rest → s.mem.wf →
    ∃ (m : Memory) (l : List Engine), step s = .next { s with agenda := rest, mem := m, insts := l } ∧ m.wf ∧
      (∀ b, m.read b = if b = a.toNat then v else s.mem.read b) ∧ l.length = s.insts.length ∧
      ∀ (n : Nat) (e : Engine), s.insts[n]? = some e →
        ∃ r : Bool, l[n]? = some { e with raced := r } ∧
          (r = true ↔ e.raced = true ∨ (e.busy = true ∧
            ((∃ i c, i < e.height.toNat ∧ c < rawCols s.params e.frame ∧
                a.toNat = e.rawAddr.toNat + i * e.rawStride.toNat + c) ∨
              (e.footprint s.params).inDst a.toNat = true)))

/-- R70: several instances. The record `clash` is assumption 8. -/
def Obligations.OverlappingJobsAreNotedAndDrawn : Prop :=
  (∀ (s t : State) (n m : Nat) (e d : Engine) (w : Word), n ≠ m → s.insts[n]? = some e → s.insts[m]? = some d →
    e.busy = false → d.busy = true → w.getLsbD 0 = true → exec (.wrCtrl n w) s = .next t →
    (e.footprint s.params).overlaps (d.footprint s.params) = true →
    ∃ e' d' : Engine, t.insts[n]? = some e' ∧ t.insts[m]? = some d' ∧
      d.footprint s.params ∈ e'.clash ∧ e.footprint s.params ∈ d'.clash) ∧
  (∀ (w : Work) (fp : Footprint) (i a : Nat), fp ∈ w.eng.clash → fp.inDst a = true →
    pairSource w i a = Config.draw8 (w.draws + i)) ∧
  (∀ (w : Work) (i a : Nat), (∀ fp ∈ w.eng.clash, fp.inDst a = false) → pairSource w i a = w.mem.read a) ∧
  ∀ (s : State) (n : Nat) (e : Engine) (p : Pattern) (fmt : Format), s.insts[n]? = some e → e.phase = .border →
    s.mem.wf → (borderPlanes s.params fmt e.frame).length ≤ e.plane → e.raced = false →
    ∃ t : State, exec (jobInstr n p fmt) s = .next t ∧
      ∀ a, t.mem.read a =
        if e.dstAddr.toNat ≤ a ∧ a < e.dstAddr.toNat + formatSize fmt e.frame ∧ a < 2 ^ 32 ∧
            (∃ fp ∈ e.clash, fp.inRaw a = true ∨ fp.inDst a = true) then
          Config.draw8 (s.draws + (a - e.dstAddr.toNat))
        else s.mem.read a

/-- R230, R231: reset. The reset values of geom, k, c and physPattern are the model's choice (assumption 6). That the DstFP
of a BUSY job that has not passed VALIDATE or has faulted is drawn, a byte it shares with RawFP included, is assumption
10; that a reserved format has no DstFP is assumption 12; that a reset keeps ENGINE_BASE is assumption 1. -/
def Obligations.ResetReturnsAnInstanceToItsResetValues : Prop :=
  ∀ (s : State) (n : Nat) (e : Engine) (rest : List Move), s.agenda = .reset n :: rest → s.insts[n]? = some e →
    s.mem.wf →
    (e.busy = false → step s = .next { s with agenda := rest, insts := s.insts.set n (Engine.reset e.base) }) ∧
    (e.busy = true →
      ∃ m : Memory, step s = .next { s with agenda := rest, insts := s.insts.set n (Engine.reset e.base), mem := m,
                                            draws := s.draws + (e.footprint s.params).dstSize } ∧ m.wf ∧
        ∀ a, m.read a =
          if (e.footprint s.params).inDst a = true ∧ a < 2 ^ 32 then Config.draw8 (s.draws + (a - e.dstAddr.toNat))
          else s.mem.read a)

/-- R44, R230, R232: the register values, the phase, the empty fault set and the absent mark are the spec's; that the launch
state has one instance and its window at address 0 is the model's choice (assumption 1; R8 leaves both OPEN). -/
def Obligations.ResetStateIsTheLaunchState : Prop :=
  (∀ base : Word,
    (Engine.reset base).ctrlWord = 0 ∧ (Engine.reset base).statusWord = 0 ∧ (Engine.reset base).code.word = 0 ∧
    (Engine.reset base).cfgWord = 0 ∧ (Engine.reset base).rawAddr = 0 ∧ (Engine.reset base).rawStride = 0 ∧
    (Engine.reset base).width = 0 ∧ (Engine.reset base).height = 0 ∧ (Engine.reset base).dstAddr = 0 ∧
    (Engine.reset base).irq = false ∧ (Engine.reset base).phase = .idle ∧ (Engine.reset base).base = base) ∧
  State.reset.insts = [Engine.reset 0] ∧ State.reset.faults = FaultSet.empty ∧ State.reset.refused = false

/-- R233: the reset register values are not a runnable job. The launch platform of the last clause is assumption 1 (DESIGN
CHOICE), the agenda assumption 5 (DESIGN CHOICE). -/
def Obligations.StartAfterResetEndsWithNullPointer : Prop :=
  (∀ (s : State) (n : Nat) (base w : Word) (rest : List Move), s.insts[n]? = some (Engine.reset base) →
    routeFrom base 0 s.insts = some (n, 0) → w.getLsbD 0 = true →
    s.agenda = .host (.transact { write := true, addr := base, size := 4, wdata := w }) :: .engine n :: rest →
    ∃ (t : State) (e : Engine), Host.Core.run Sys2Proof.core 2 s = .next t ∧
      e = { Engine.reset base with irqEn := w.getLsbD 1, done := true, code := .nullPointer } ∧
      t = { s with insts := s.insts.set n e, agenda := rest } ∧
      e.statusWord = 0x00000002 ∧ e.code.word = 0x00000001) ∧
  ∀ w : Word, w.getLsbD 0 = true →
    ∃ (t : State) (e : Engine),
      Host.Core.run Sys2Proof.core 2
        { State.reset with agenda := [.host (.transact { write := true, addr := 0, size := 4, wdata := w })] } = .next t ∧
      t.insts = [e] ∧ e.statusWord = 0x00000002 ∧ e.code.word = 0x00000001 ∧ t.mem = State.reset.mem ∧
      t.faults = FaultSet.empty

/-- R25, R36, R232: the invariant holds at launch. -/
def Obligations.ResetMeetsTheInvariant : Prop :=
  State.reset.Inv

/-- R22, R25, R36, R38, R104, R161, R166: the invariant of the machine. -/
def Obligations.StepKeepsTheInvariant : Prop :=
  ∀ s t : State, s.Inv → step s = .next t → t.Inv

/-- R42, R69, R238: the job reads the values its registers held when START was accepted. That no step changes ENGINE_BASE is
the model's choice (assumption 1, DESIGN CHOICE). -/
def Obligations.ConfigurationIsFixedWhileBusy : Prop :=
  ∀ (s t : State) (n : Nat) (e e' : Engine), step s = .next t → s.insts[n]? = some e → t.insts[n]? = some e' →
    e.busy = true → e'.busy = true →
    e'.pattern = e.pattern ∧ e'.format = e.format ∧ e'.frame = e.frame ∧ e'.base = e.base

/-- R40, R215, R8: permanent marks and fixed parameters. That no step changes a parameter or the number of instances is the
model's choice (assumption 1). -/
def Obligations.MarksAndParametersArePermanent : Prop :=
  State.reset.faults = FaultSet.empty ∧
  ∀ s t : State, step s = .next t →
    s.faults.union t.faults = t.faults ∧ (s.refused = true → t.refused = true) ∧ t.params = s.params ∧
    t.insts.length = s.insts.length
end

