-- ==== Sys2Proof/Laws/State.lean ====
section
/-!
SUPPORT. One lemma per field per named update of the state, so that no later proof unfolds a record update.
-/

namespace Sys2Proof.Machine

variable (s : State)

/-! ## setInst -/

@[simp] theorem State.setInst_params (n : Nat) (e : Engine) : (s.setInst n e).params = s.params := rfl
@[simp] theorem State.setInst_insts (n : Nat) (e : Engine) : (s.setInst n e).insts = s.insts.set n e := rfl
@[simp] theorem State.setInst_mem (n : Nat) (e : Engine) : (s.setInst n e).mem = s.mem := rfl
@[simp] theorem State.setInst_faults (n : Nat) (e : Engine) : (s.setInst n e).faults = s.faults := rfl
@[simp] theorem State.setInst_refused (n : Nat) (e : Engine) : (s.setInst n e).refused = s.refused := rfl
@[simp] theorem State.setInst_rdata (n : Nat) (e : Engine) : (s.setInst n e).rdata = s.rdata := rfl
@[simp] theorem State.setInst_hostByte (n : Nat) (e : Engine) : (s.setInst n e).hostByte = s.hostByte := rfl
@[simp] theorem State.setInst_draws (n : Nat) (e : Engine) : (s.setInst n e).draws = s.draws := rfl
@[simp] theorem State.setInst_agenda (n : Nat) (e : Engine) : (s.setInst n e).agenda = s.agenda := rfl

/-! ## setMem -/

@[simp] theorem State.setMem_params (m : Memory) : (s.setMem m).params = s.params := rfl
@[simp] theorem State.setMem_insts (m : Memory) : (s.setMem m).insts = s.insts := rfl
@[simp] theorem State.setMem_mem (m : Memory) : (s.setMem m).mem = m := rfl
@[simp] theorem State.setMem_faults (m : Memory) : (s.setMem m).faults = s.faults := rfl
@[simp] theorem State.setMem_refused (m : Memory) : (s.setMem m).refused = s.refused := rfl
@[simp] theorem State.setMem_rdata (m : Memory) : (s.setMem m).rdata = s.rdata := rfl
@[simp] theorem State.setMem_hostByte (m : Memory) : (s.setMem m).hostByte = s.hostByte := rfl
@[simp] theorem State.setMem_draws (m : Memory) : (s.setMem m).draws = s.draws := rfl
@[simp] theorem State.setMem_agenda (m : Memory) : (s.setMem m).agenda = s.agenda := rfl

/-! ## takeDraws -/

@[simp] theorem State.takeDraws_params (n : Nat) : (s.takeDraws n).params = s.params := rfl
@[simp] theorem State.takeDraws_insts (n : Nat) : (s.takeDraws n).insts = s.insts := rfl
@[simp] theorem State.takeDraws_mem (n : Nat) : (s.takeDraws n).mem = s.mem := rfl
@[simp] theorem State.takeDraws_faults (n : Nat) : (s.takeDraws n).faults = s.faults := rfl
@[simp] theorem State.takeDraws_refused (n : Nat) : (s.takeDraws n).refused = s.refused := rfl
@[simp] theorem State.takeDraws_rdata (n : Nat) : (s.takeDraws n).rdata = s.rdata := rfl
@[simp] theorem State.takeDraws_hostByte (n : Nat) : (s.takeDraws n).hostByte = s.hostByte := rfl
@[simp] theorem State.takeDraws_draws (n : Nat) : (s.takeDraws n).draws = s.draws + n := rfl
@[simp] theorem State.takeDraws_agenda (n : Nat) : (s.takeDraws n).agenda = s.agenda := rfl

/-! ## setRdata -/

@[simp] theorem State.setRdata_params (v : Word) : (s.setRdata v).params = s.params := rfl
@[simp] theorem State.setRdata_insts (v : Word) : (s.setRdata v).insts = s.insts := rfl
@[simp] theorem State.setRdata_mem (v : Word) : (s.setRdata v).mem = s.mem := rfl
@[simp] theorem State.setRdata_faults (v : Word) : (s.setRdata v).faults = s.faults := rfl
@[simp] theorem State.setRdata_refused (v : Word) : (s.setRdata v).refused = s.refused := rfl
@[simp] theorem State.setRdata_rdata (v : Word) : (s.setRdata v).rdata = v := rfl
@[simp] theorem State.setRdata_hostByte (v : Word) : (s.setRdata v).hostByte = s.hostByte := rfl
@[simp] theorem State.setRdata_draws (v : Word) : (s.setRdata v).draws = s.draws := rfl
@[simp] theorem State.setRdata_agenda (v : Word) : (s.setRdata v).agenda = s.agenda := rfl

/-! ## setHostByte -/

@[simp] theorem State.setHostByte_params (v : Byte) : (s.setHostByte v).params = s.params := rfl
@[simp] theorem State.setHostByte_insts (v : Byte) : (s.setHostByte v).insts = s.insts := rfl
@[simp] theorem State.setHostByte_mem (v : Byte) : (s.setHostByte v).mem = s.mem := rfl
@[simp] theorem State.setHostByte_faults (v : Byte) : (s.setHostByte v).faults = s.faults := rfl
@[simp] theorem State.setHostByte_refused (v : Byte) : (s.setHostByte v).refused = s.refused := rfl
@[simp] theorem State.setHostByte_rdata (v : Byte) : (s.setHostByte v).rdata = s.rdata := rfl
@[simp] theorem State.setHostByte_hostByte (v : Byte) : (s.setHostByte v).hostByte = v := rfl
@[simp] theorem State.setHostByte_draws (v : Byte) : (s.setHostByte v).draws = s.draws := rfl
@[simp] theorem State.setHostByte_agenda (v : Byte) : (s.setHostByte v).agenda = s.agenda := rfl

/-! ## addFaults -/

@[simp] theorem State.addFaults_params (f : FaultSet) : (s.addFaults f).params = s.params := rfl
@[simp] theorem State.addFaults_insts (f : FaultSet) : (s.addFaults f).insts = s.insts := rfl
@[simp] theorem State.addFaults_mem (f : FaultSet) : (s.addFaults f).mem = s.mem := rfl
@[simp] theorem State.addFaults_faults (f : FaultSet) : (s.addFaults f).faults = s.faults.union f := rfl
@[simp] theorem State.addFaults_refused (f : FaultSet) : (s.addFaults f).refused = s.refused := rfl
@[simp] theorem State.addFaults_rdata (f : FaultSet) : (s.addFaults f).rdata = s.rdata := rfl
@[simp] theorem State.addFaults_hostByte (f : FaultSet) : (s.addFaults f).hostByte = s.hostByte := rfl
@[simp] theorem State.addFaults_draws (f : FaultSet) : (s.addFaults f).draws = s.draws := rfl
@[simp] theorem State.addFaults_agenda (f : FaultSet) : (s.addFaults f).agenda = s.agenda := rfl

/-! ## markRefused -/

@[simp] theorem State.markRefused_params : (s.markRefused).params = s.params := rfl
@[simp] theorem State.markRefused_insts : (s.markRefused).insts = s.insts := rfl
@[simp] theorem State.markRefused_mem : (s.markRefused).mem = s.mem := rfl
@[simp] theorem State.markRefused_faults : (s.markRefused).faults = s.faults := rfl
@[simp] theorem State.markRefused_refused : (s.markRefused).refused = true := rfl
@[simp] theorem State.markRefused_rdata : (s.markRefused).rdata = s.rdata := rfl
@[simp] theorem State.markRefused_hostByte : (s.markRefused).hostByte = s.hostByte := rfl
@[simp] theorem State.markRefused_draws : (s.markRefused).draws = s.draws := rfl
@[simp] theorem State.markRefused_agenda : (s.markRefused).agenda = s.agenda := rfl

/-! ## setAgenda -/

@[simp] theorem State.setAgenda_params (l : List Move) : (s.setAgenda l).params = s.params := rfl
@[simp] theorem State.setAgenda_insts (l : List Move) : (s.setAgenda l).insts = s.insts := rfl
@[simp] theorem State.setAgenda_mem (l : List Move) : (s.setAgenda l).mem = s.mem := rfl
@[simp] theorem State.setAgenda_faults (l : List Move) : (s.setAgenda l).faults = s.faults := rfl
@[simp] theorem State.setAgenda_refused (l : List Move) : (s.setAgenda l).refused = s.refused := rfl
@[simp] theorem State.setAgenda_rdata (l : List Move) : (s.setAgenda l).rdata = s.rdata := rfl
@[simp] theorem State.setAgenda_hostByte (l : List Move) : (s.setAgenda l).hostByte = s.hostByte := rfl
@[simp] theorem State.setAgenda_draws (l : List Move) : (s.setAgenda l).draws = s.draws := rfl
@[simp] theorem State.setAgenda_agenda (l : List Move) : (s.setAgenda l).agenda = l := rfl

/-! ## commit -/

@[simp] theorem State.commit_params (n : Nat) (w : Work) : (s.commit n w).params = s.params := by
  unfold State.commit; split <;> rfl
@[simp] theorem State.commit_insts (n : Nat) (w : Work) : (s.commit n w).insts = s.insts.set n w.eng := by
  unfold State.commit; split <;> rfl
@[simp] theorem State.commit_mem (n : Nat) (w : Work) : (s.commit n w).mem = w.mem := by
  unfold State.commit; split <;> rfl
theorem State.commit_faults (n : Nat) (w : Work) :
    (s.commit n w).faults = if w.eng.phase = .faulted then s.faults.union FaultSet.memOnly else s.faults := by
  unfold State.commit; split <;> simp_all
@[simp] theorem State.commit_refused (n : Nat) (w : Work) : (s.commit n w).refused = s.refused := by
  unfold State.commit; split <;> rfl
@[simp] theorem State.commit_rdata (n : Nat) (w : Work) : (s.commit n w).rdata = s.rdata := by
  unfold State.commit; split <;> rfl
@[simp] theorem State.commit_hostByte (n : Nat) (w : Work) : (s.commit n w).hostByte = s.hostByte := by
  unfold State.commit; split <;> rfl
@[simp] theorem State.commit_draws (n : Nat) (w : Work) : (s.commit n w).draws = w.draws := by
  unfold State.commit; split <;> rfl
@[simp] theorem State.commit_agenda (n : Nat) (w : Work) : (s.commit n w).agenda = s.agenda := by
  unfold State.commit; split <;> rfl

/-- Putting back the instance that is there changes nothing. -/
theorem State.setInst_self (s : State) (n : Nat) (e : Engine) (h : s.insts[n]? = some e) : s.setInst n e = s := by
  cases s with
  | mk params insts mem faults refused rdata hostByte draws agenda =>
    simp only [State.setInst, State.mk.injEq, true_and, and_true]
    obtain ⟨hn, he⟩ := List.getElem?_eq_some_iff.mp h
    rw [← he]
    exact List.set_getElem_self hn

end Sys2Proof.Machine
end

