-- ==== Sys2Proof/Laws/Engine.lean ====
section
/-!
SUPPORT. One lemma per field per named update of an instance.
-/

namespace Sys2Proof.Machine

variable (e : Engine)

/-! ## started -/

@[simp] theorem Engine.started_base : (e.started).base = e.base := rfl
@[simp] theorem Engine.started_irqEn : (e.started).irqEn = e.irqEn := rfl
@[simp] theorem Engine.started_busy : (e.started).busy = true := rfl
@[simp] theorem Engine.started_done : (e.started).done = false := rfl
@[simp] theorem Engine.started_code : (e.started).code = e.code := rfl
@[simp] theorem Engine.started_pattern : (e.started).pattern = e.pattern := rfl
@[simp] theorem Engine.started_format : (e.started).format = e.format := rfl
@[simp] theorem Engine.started_rawAddr : (e.started).rawAddr = e.rawAddr := rfl
@[simp] theorem Engine.started_rawStride : (e.started).rawStride = e.rawStride := rfl
@[simp] theorem Engine.started_width : (e.started).width = e.width := rfl
@[simp] theorem Engine.started_height : (e.started).height = e.height := rfl
@[simp] theorem Engine.started_dstAddr : (e.started).dstAddr = e.dstAddr := rfl
@[simp] theorem Engine.started_phase : (e.started).phase = .validate := rfl
@[simp] theorem Engine.started_geom : (e.started).geom = e.geom := rfl
@[simp] theorem Engine.started_k : (e.started).k = e.k := rfl
@[simp] theorem Engine.started_c : (e.started).c = e.c := rfl
@[simp] theorem Engine.started_physPattern : (e.started).physPattern = e.physPattern := rfl
@[simp] theorem Engine.started_plane : (e.started).plane = e.plane := rfl
@[simp] theorem Engine.started_raced : (e.started).raced = e.raced := rfl
@[simp] theorem Engine.started_clash : (e.started).clash = e.clash := rfl

/-! ## completed -/

@[simp] theorem Engine.completed_base (code : ResultCode) : (Engine.completed code e).base = e.base := rfl
@[simp] theorem Engine.completed_irqEn (code : ResultCode) : (Engine.completed code e).irqEn = e.irqEn := rfl
@[simp] theorem Engine.completed_busy (code : ResultCode) : (Engine.completed code e).busy = false := rfl
@[simp] theorem Engine.completed_done (code : ResultCode) : (Engine.completed code e).done = true := rfl
@[simp] theorem Engine.completed_code (code : ResultCode) : (Engine.completed code e).code = code := rfl
@[simp] theorem Engine.completed_pattern (code : ResultCode) : (Engine.completed code e).pattern = e.pattern := rfl
@[simp] theorem Engine.completed_format (code : ResultCode) : (Engine.completed code e).format = e.format := rfl
@[simp] theorem Engine.completed_rawAddr (code : ResultCode) : (Engine.completed code e).rawAddr = e.rawAddr := rfl
@[simp] theorem Engine.completed_rawStride (code : ResultCode) : (Engine.completed code e).rawStride = e.rawStride := rfl
@[simp] theorem Engine.completed_width (code : ResultCode) : (Engine.completed code e).width = e.width := rfl
@[simp] theorem Engine.completed_height (code : ResultCode) : (Engine.completed code e).height = e.height := rfl
@[simp] theorem Engine.completed_dstAddr (code : ResultCode) : (Engine.completed code e).dstAddr = e.dstAddr := rfl
@[simp] theorem Engine.completed_phase (code : ResultCode) : (Engine.completed code e).phase = .idle := rfl
@[simp] theorem Engine.completed_geom (code : ResultCode) : (Engine.completed code e).geom = e.geom := rfl
@[simp] theorem Engine.completed_k (code : ResultCode) : (Engine.completed code e).k = e.k := rfl
@[simp] theorem Engine.completed_c (code : ResultCode) : (Engine.completed code e).c = e.c := rfl
@[simp] theorem Engine.completed_physPattern (code : ResultCode) : (Engine.completed code e).physPattern = e.physPattern := rfl
@[simp] theorem Engine.completed_plane (code : ResultCode) : (Engine.completed code e).plane = e.plane := rfl
@[simp] theorem Engine.completed_raced (code : ResultCode) : (Engine.completed code e).raced = e.raced := rfl
@[simp] theorem Engine.completed_clash (code : ResultCode) : (Engine.completed code e).clash = e.clash := rfl

/-! ## doneCleared -/

@[simp] theorem Engine.doneCleared_base : (e.doneCleared).base = e.base := rfl
@[simp] theorem Engine.doneCleared_irqEn : (e.doneCleared).irqEn = e.irqEn := rfl
@[simp] theorem Engine.doneCleared_busy : (e.doneCleared).busy = e.busy := rfl
@[simp] theorem Engine.doneCleared_done : (e.doneCleared).done = false := rfl
@[simp] theorem Engine.doneCleared_code : (e.doneCleared).code = e.code := rfl
@[simp] theorem Engine.doneCleared_pattern : (e.doneCleared).pattern = e.pattern := rfl
@[simp] theorem Engine.doneCleared_format : (e.doneCleared).format = e.format := rfl
@[simp] theorem Engine.doneCleared_rawAddr : (e.doneCleared).rawAddr = e.rawAddr := rfl
@[simp] theorem Engine.doneCleared_rawStride : (e.doneCleared).rawStride = e.rawStride := rfl
@[simp] theorem Engine.doneCleared_width : (e.doneCleared).width = e.width := rfl
@[simp] theorem Engine.doneCleared_height : (e.doneCleared).height = e.height := rfl
@[simp] theorem Engine.doneCleared_dstAddr : (e.doneCleared).dstAddr = e.dstAddr := rfl
@[simp] theorem Engine.doneCleared_phase : (e.doneCleared).phase = e.phase := rfl
@[simp] theorem Engine.doneCleared_geom : (e.doneCleared).geom = e.geom := rfl
@[simp] theorem Engine.doneCleared_k : (e.doneCleared).k = e.k := rfl
@[simp] theorem Engine.doneCleared_c : (e.doneCleared).c = e.c := rfl
@[simp] theorem Engine.doneCleared_physPattern : (e.doneCleared).physPattern = e.physPattern := rfl
@[simp] theorem Engine.doneCleared_plane : (e.doneCleared).plane = e.plane := rfl
@[simp] theorem Engine.doneCleared_raced : (e.doneCleared).raced = e.raced := rfl
@[simp] theorem Engine.doneCleared_clash : (e.doneCleared).clash = e.clash := rfl

/-! ## enterRows -/

@[simp] theorem Engine.enterRows_base (fmt : Format) (pat : Pattern) : (Engine.enterRows fmt pat e).base = e.base := rfl
@[simp] theorem Engine.enterRows_irqEn (fmt : Format) (pat : Pattern) : (Engine.enterRows fmt pat e).irqEn = e.irqEn := rfl
@[simp] theorem Engine.enterRows_busy (fmt : Format) (pat : Pattern) : (Engine.enterRows fmt pat e).busy = e.busy := rfl
@[simp] theorem Engine.enterRows_done (fmt : Format) (pat : Pattern) : (Engine.enterRows fmt pat e).done = e.done := rfl
@[simp] theorem Engine.enterRows_code (fmt : Format) (pat : Pattern) : (Engine.enterRows fmt pat e).code = e.code := rfl
@[simp] theorem Engine.enterRows_pattern (fmt : Format) (pat : Pattern) : (Engine.enterRows fmt pat e).pattern = e.pattern := rfl
@[simp] theorem Engine.enterRows_format (fmt : Format) (pat : Pattern) : (Engine.enterRows fmt pat e).format = e.format := rfl
@[simp] theorem Engine.enterRows_rawAddr (fmt : Format) (pat : Pattern) : (Engine.enterRows fmt pat e).rawAddr = e.rawAddr := rfl
@[simp] theorem Engine.enterRows_rawStride (fmt : Format) (pat : Pattern) : (Engine.enterRows fmt pat e).rawStride = e.rawStride := rfl
@[simp] theorem Engine.enterRows_width (fmt : Format) (pat : Pattern) : (Engine.enterRows fmt pat e).width = e.width := rfl
@[simp] theorem Engine.enterRows_height (fmt : Format) (pat : Pattern) : (Engine.enterRows fmt pat e).height = e.height := rfl
@[simp] theorem Engine.enterRows_dstAddr (fmt : Format) (pat : Pattern) : (Engine.enterRows fmt pat e).dstAddr = e.dstAddr := rfl
@[simp] theorem Engine.enterRows_phase (fmt : Format) (pat : Pattern) : (Engine.enterRows fmt pat e).phase = .rows := rfl
@[simp] theorem Engine.enterRows_geom (fmt : Format) (pat : Pattern) : (Engine.enterRows fmt pat e).geom = deriveTile (physPatternOf fmt pat) := rfl
@[simp] theorem Engine.enterRows_k (fmt : Format) (pat : Pattern) : (Engine.enterRows fmt pat e).k = 0 := rfl
@[simp] theorem Engine.enterRows_c (fmt : Format) (pat : Pattern) : (Engine.enterRows fmt pat e).c = 0 := rfl
@[simp] theorem Engine.enterRows_physPattern (fmt : Format) (pat : Pattern) : (Engine.enterRows fmt pat e).physPattern = physPatternOf fmt pat := rfl
@[simp] theorem Engine.enterRows_plane (fmt : Format) (pat : Pattern) : (Engine.enterRows fmt pat e).plane = e.plane := rfl
@[simp] theorem Engine.enterRows_raced (fmt : Format) (pat : Pattern) : (Engine.enterRows fmt pat e).raced = e.raced := rfl
@[simp] theorem Engine.enterRows_clash (fmt : Format) (pat : Pattern) : (Engine.enterRows fmt pat e).clash = e.clash := rfl

/-! ## advanced -/

@[simp] theorem Engine.advanced_base : (e.advanced).base = e.base := by
  unfold Engine.advanced; split <;> rfl
@[simp] theorem Engine.advanced_irqEn : (e.advanced).irqEn = e.irqEn := by
  unfold Engine.advanced; split <;> rfl
@[simp] theorem Engine.advanced_busy : (e.advanced).busy = e.busy := by
  unfold Engine.advanced; split <;> rfl
@[simp] theorem Engine.advanced_done : (e.advanced).done = e.done := by
  unfold Engine.advanced; split <;> rfl
@[simp] theorem Engine.advanced_code : (e.advanced).code = e.code := by
  unfold Engine.advanced; split <;> rfl
@[simp] theorem Engine.advanced_pattern : (e.advanced).pattern = e.pattern := by
  unfold Engine.advanced; split <;> rfl
@[simp] theorem Engine.advanced_format : (e.advanced).format = e.format := by
  unfold Engine.advanced; split <;> rfl
@[simp] theorem Engine.advanced_rawAddr : (e.advanced).rawAddr = e.rawAddr := by
  unfold Engine.advanced; split <;> rfl
@[simp] theorem Engine.advanced_rawStride : (e.advanced).rawStride = e.rawStride := by
  unfold Engine.advanced; split <;> rfl
@[simp] theorem Engine.advanced_width : (e.advanced).width = e.width := by
  unfold Engine.advanced; split <;> rfl
@[simp] theorem Engine.advanced_height : (e.advanced).height = e.height := by
  unfold Engine.advanced; split <;> rfl
@[simp] theorem Engine.advanced_dstAddr : (e.advanced).dstAddr = e.dstAddr := by
  unfold Engine.advanced; split <;> rfl
@[simp] theorem Engine.advanced_phase : (e.advanced).phase = e.phase := by
  unfold Engine.advanced; split <;> rfl
@[simp] theorem Engine.advanced_k : (e.advanced).k = e.k := by
  unfold Engine.advanced; split <;> rfl
@[simp] theorem Engine.advanced_c : (e.advanced).c = e.c := by
  unfold Engine.advanced; split <;> rfl
@[simp] theorem Engine.advanced_physPattern : (e.advanced).physPattern = e.physPattern := by
  unfold Engine.advanced; split <;> rfl
@[simp] theorem Engine.advanced_plane : (e.advanced).plane = e.plane := by
  unfold Engine.advanced; split <;> rfl
@[simp] theorem Engine.advanced_raced : (e.advanced).raced = e.raced := by
  unfold Engine.advanced; split <;> rfl
@[simp] theorem Engine.advanced_clash : (e.advanced).clash = e.clash := by
  unfold Engine.advanced; split <;> rfl

/-! ## nextPair -/

@[simp] theorem Engine.nextPair_base : (e.nextPair).base = e.base := by
  unfold Engine.nextPair; split <;> [rfl; (split <;> rfl)]
@[simp] theorem Engine.nextPair_irqEn : (e.nextPair).irqEn = e.irqEn := by
  unfold Engine.nextPair; split <;> [rfl; (split <;> rfl)]
@[simp] theorem Engine.nextPair_busy : (e.nextPair).busy = e.busy := by
  unfold Engine.nextPair; split <;> [rfl; (split <;> rfl)]
@[simp] theorem Engine.nextPair_done : (e.nextPair).done = e.done := by
  unfold Engine.nextPair; split <;> [rfl; (split <;> rfl)]
@[simp] theorem Engine.nextPair_code : (e.nextPair).code = e.code := by
  unfold Engine.nextPair; split <;> [rfl; (split <;> rfl)]
@[simp] theorem Engine.nextPair_pattern : (e.nextPair).pattern = e.pattern := by
  unfold Engine.nextPair; split <;> [rfl; (split <;> rfl)]
@[simp] theorem Engine.nextPair_format : (e.nextPair).format = e.format := by
  unfold Engine.nextPair; split <;> [rfl; (split <;> rfl)]
@[simp] theorem Engine.nextPair_rawAddr : (e.nextPair).rawAddr = e.rawAddr := by
  unfold Engine.nextPair; split <;> [rfl; (split <;> rfl)]
@[simp] theorem Engine.nextPair_rawStride : (e.nextPair).rawStride = e.rawStride := by
  unfold Engine.nextPair; split <;> [rfl; (split <;> rfl)]
@[simp] theorem Engine.nextPair_width : (e.nextPair).width = e.width := by
  unfold Engine.nextPair; split <;> [rfl; (split <;> rfl)]
@[simp] theorem Engine.nextPair_height : (e.nextPair).height = e.height := by
  unfold Engine.nextPair; split <;> [rfl; (split <;> rfl)]
@[simp] theorem Engine.nextPair_dstAddr : (e.nextPair).dstAddr = e.dstAddr := by
  unfold Engine.nextPair; split <;> [rfl; (split <;> rfl)]
@[simp] theorem Engine.nextPair_geom : (e.nextPair).geom = e.geom := by
  unfold Engine.nextPair; split <;> [rfl; (split <;> rfl)]
@[simp] theorem Engine.nextPair_physPattern : (e.nextPair).physPattern = e.physPattern := by
  unfold Engine.nextPair; split <;> [rfl; (split <;> rfl)]
@[simp] theorem Engine.nextPair_raced : (e.nextPair).raced = e.raced := by
  unfold Engine.nextPair; split <;> [rfl; (split <;> rfl)]
@[simp] theorem Engine.nextPair_clash : (e.nextPair).clash = e.clash := by
  unfold Engine.nextPair; split <;> [rfl; (split <;> rfl)]

/-! ## noteClash -/

@[simp] theorem Engine.noteClash_base (p : Params) (fp : Footprint) : (Engine.noteClash p fp e).base = e.base := by
  unfold Engine.noteClash; split <;> rfl
@[simp] theorem Engine.noteClash_irqEn (p : Params) (fp : Footprint) : (Engine.noteClash p fp e).irqEn = e.irqEn := by
  unfold Engine.noteClash; split <;> rfl
@[simp] theorem Engine.noteClash_busy (p : Params) (fp : Footprint) : (Engine.noteClash p fp e).busy = e.busy := by
  unfold Engine.noteClash; split <;> rfl
@[simp] theorem Engine.noteClash_done (p : Params) (fp : Footprint) : (Engine.noteClash p fp e).done = e.done := by
  unfold Engine.noteClash; split <;> rfl
@[simp] theorem Engine.noteClash_code (p : Params) (fp : Footprint) : (Engine.noteClash p fp e).code = e.code := by
  unfold Engine.noteClash; split <;> rfl
@[simp] theorem Engine.noteClash_pattern (p : Params) (fp : Footprint) : (Engine.noteClash p fp e).pattern = e.pattern := by
  unfold Engine.noteClash; split <;> rfl
@[simp] theorem Engine.noteClash_format (p : Params) (fp : Footprint) : (Engine.noteClash p fp e).format = e.format := by
  unfold Engine.noteClash; split <;> rfl
@[simp] theorem Engine.noteClash_rawAddr (p : Params) (fp : Footprint) : (Engine.noteClash p fp e).rawAddr = e.rawAddr := by
  unfold Engine.noteClash; split <;> rfl
@[simp] theorem Engine.noteClash_rawStride (p : Params) (fp : Footprint) : (Engine.noteClash p fp e).rawStride = e.rawStride := by
  unfold Engine.noteClash; split <;> rfl
@[simp] theorem Engine.noteClash_width (p : Params) (fp : Footprint) : (Engine.noteClash p fp e).width = e.width := by
  unfold Engine.noteClash; split <;> rfl
@[simp] theorem Engine.noteClash_height (p : Params) (fp : Footprint) : (Engine.noteClash p fp e).height = e.height := by
  unfold Engine.noteClash; split <;> rfl
@[simp] theorem Engine.noteClash_dstAddr (p : Params) (fp : Footprint) : (Engine.noteClash p fp e).dstAddr = e.dstAddr := by
  unfold Engine.noteClash; split <;> rfl
@[simp] theorem Engine.noteClash_phase (p : Params) (fp : Footprint) : (Engine.noteClash p fp e).phase = e.phase := by
  unfold Engine.noteClash; split <;> rfl
@[simp] theorem Engine.noteClash_geom (p : Params) (fp : Footprint) : (Engine.noteClash p fp e).geom = e.geom := by
  unfold Engine.noteClash; split <;> rfl
@[simp] theorem Engine.noteClash_k (p : Params) (fp : Footprint) : (Engine.noteClash p fp e).k = e.k := by
  unfold Engine.noteClash; split <;> rfl
@[simp] theorem Engine.noteClash_c (p : Params) (fp : Footprint) : (Engine.noteClash p fp e).c = e.c := by
  unfold Engine.noteClash; split <;> rfl
@[simp] theorem Engine.noteClash_physPattern (p : Params) (fp : Footprint) : (Engine.noteClash p fp e).physPattern = e.physPattern := by
  unfold Engine.noteClash; split <;> rfl
@[simp] theorem Engine.noteClash_plane (p : Params) (fp : Footprint) : (Engine.noteClash p fp e).plane = e.plane := by
  unfold Engine.noteClash; split <;> rfl
@[simp] theorem Engine.noteClash_raced (p : Params) (fp : Footprint) : (Engine.noteClash p fp e).raced = e.raced := by
  unfold Engine.noteClash; split <;> rfl

/-! ## hitBy -/

@[simp] theorem Engine.hitBy_base (p : Params) (a : Nat) : (Engine.hitBy p a e).base = e.base := by
  unfold Engine.hitBy; split <;> rfl
@[simp] theorem Engine.hitBy_irqEn (p : Params) (a : Nat) : (Engine.hitBy p a e).irqEn = e.irqEn := by
  unfold Engine.hitBy; split <;> rfl
@[simp] theorem Engine.hitBy_busy (p : Params) (a : Nat) : (Engine.hitBy p a e).busy = e.busy := by
  unfold Engine.hitBy; split <;> rfl
@[simp] theorem Engine.hitBy_done (p : Params) (a : Nat) : (Engine.hitBy p a e).done = e.done := by
  unfold Engine.hitBy; split <;> rfl
@[simp] theorem Engine.hitBy_code (p : Params) (a : Nat) : (Engine.hitBy p a e).code = e.code := by
  unfold Engine.hitBy; split <;> rfl
@[simp] theorem Engine.hitBy_pattern (p : Params) (a : Nat) : (Engine.hitBy p a e).pattern = e.pattern := by
  unfold Engine.hitBy; split <;> rfl
@[simp] theorem Engine.hitBy_format (p : Params) (a : Nat) : (Engine.hitBy p a e).format = e.format := by
  unfold Engine.hitBy; split <;> rfl
@[simp] theorem Engine.hitBy_rawAddr (p : Params) (a : Nat) : (Engine.hitBy p a e).rawAddr = e.rawAddr := by
  unfold Engine.hitBy; split <;> rfl
@[simp] theorem Engine.hitBy_rawStride (p : Params) (a : Nat) : (Engine.hitBy p a e).rawStride = e.rawStride := by
  unfold Engine.hitBy; split <;> rfl
@[simp] theorem Engine.hitBy_width (p : Params) (a : Nat) : (Engine.hitBy p a e).width = e.width := by
  unfold Engine.hitBy; split <;> rfl
@[simp] theorem Engine.hitBy_height (p : Params) (a : Nat) : (Engine.hitBy p a e).height = e.height := by
  unfold Engine.hitBy; split <;> rfl
@[simp] theorem Engine.hitBy_dstAddr (p : Params) (a : Nat) : (Engine.hitBy p a e).dstAddr = e.dstAddr := by
  unfold Engine.hitBy; split <;> rfl
@[simp] theorem Engine.hitBy_phase (p : Params) (a : Nat) : (Engine.hitBy p a e).phase = e.phase := by
  unfold Engine.hitBy; split <;> rfl
@[simp] theorem Engine.hitBy_geom (p : Params) (a : Nat) : (Engine.hitBy p a e).geom = e.geom := by
  unfold Engine.hitBy; split <;> rfl
@[simp] theorem Engine.hitBy_k (p : Params) (a : Nat) : (Engine.hitBy p a e).k = e.k := by
  unfold Engine.hitBy; split <;> rfl
@[simp] theorem Engine.hitBy_c (p : Params) (a : Nat) : (Engine.hitBy p a e).c = e.c := by
  unfold Engine.hitBy; split <;> rfl
@[simp] theorem Engine.hitBy_physPattern (p : Params) (a : Nat) : (Engine.hitBy p a e).physPattern = e.physPattern := by
  unfold Engine.hitBy; split <;> rfl
@[simp] theorem Engine.hitBy_plane (p : Params) (a : Nat) : (Engine.hitBy p a e).plane = e.plane := by
  unfold Engine.hitBy; split <;> rfl
@[simp] theorem Engine.hitBy_clash (p : Params) (a : Nat) : (Engine.hitBy p a e).clash = e.clash := by
  unfold Engine.hitBy; split <;> rfl

/-! ## The operands depend on the registers alone -/

@[simp] theorem Engine.advanced_frame : e.advanced.frame = e.frame := by simp [Engine.frame]
@[simp] theorem Engine.nextPair_frame : e.nextPair.frame = e.frame := by simp [Engine.frame]
@[simp] theorem Engine.started_frame : e.started.frame = e.frame := rfl
@[simp] theorem Engine.frame_A : e.frame.A = e.rawAddr.toNat := rfl
@[simp] theorem Engine.frame_P : e.frame.P = e.rawStride.toNat := rfl
@[simp] theorem Engine.frame_W : e.frame.W = e.width.toNat := rfl
@[simp] theorem Engine.frame_H : e.frame.H = e.height.toNat := rfl
@[simp] theorem Engine.frame_D : e.frame.D = e.dstAddr.toNat := rfl

end Sys2Proof.Machine
end

