-- ==== Sys2Proof/Laws/Memory.lean ====
section
/-!
SUPPORT. The laws of the data space: reading what was written, and the canonical form under every operation that
writes.
-/

namespace Sys2Proof.Machine

/-! ## Reading -/

@[simp] theorem Memory.read_nil (a : Nat) : Memory.read [] a = Memory.unlisted := rfl

/-- A byte below every listed address reads as an unlisted one. -/
theorem Memory.read_of_lt (m : Memory) (a : Nat) (h : ∀ x ∈ m, a < x.1) : m.read a = Memory.unlisted := by
  induction m with
  | nil => rfl
  | cons x rest ih =>
    have hx := h x (by simp)
    rw [Memory.read, if_neg (by omega)]
    exact ih fun y hy => h y (by simp [hy])

/-- An entry put before `rest` is found, and nothing else is changed. -/
theorem Memory.read_entry (a b : Nat) (v : Byte) (rest : Memory) (h : ∀ x ∈ rest, a < x.1) :
    (Memory.entry a v rest).read b = if b = a then v else rest.read b := by
  unfold Memory.entry
  by_cases hv : v = Memory.unlisted
  · rw [if_pos hv]
    by_cases hb : b = a
    · subst hb; rw [if_pos rfl, Memory.read_of_lt rest b h, hv]
    · rw [if_neg hb]
  · rw [if_neg hv, Memory.read]
    by_cases hb : b = a
    · rw [if_pos hb, if_pos hb.symm]
    · rw [if_neg hb, if_neg (Ne.symm hb)]

/-- Reading after a write: the byte written at its address, and every other byte as before. -/
theorem Memory.read_write (m : Memory) (a b : Nat) (v : Byte) (h : m.wf) :
    (m.write a v).read b = if b = a then v else m.read b := by
  obtain ⟨hs, hv⟩ := h
  induction m with
  | nil => exact Memory.read_entry a b v [] (by simp)
  | cons x rest ih =>
    obtain ⟨c, w⟩ := x
    rw [List.pairwise_cons] at hs
    simp only [Memory.write]
    split
    · rename_i hac
      refine Memory.read_entry a b v _ fun y hy => ?_
      rcases List.mem_cons.mp hy with rfl | hy
      · exact hac
      · exact lt_trans hac (hs.1 y hy)
    · split
      · rename_i _ hac
        subst hac
        rw [Memory.read_entry a b v rest hs.1]
        by_cases hb : b = a
        · simp [hb]
        · simp [hb, Memory.read, Ne.symm hb]
      · rename_i h1 h2
        have := ih hs.2 (fun y hy => hv y (by simp [hy]))
        simp only [Memory.read, this]
        by_cases hb : c = b
        · subst hb; simp [Ne.symm h2]
        · simp [hb]

/-! ## The canonical form -/

theorem Memory.wf_nil : Memory.wf [] := by simp [Memory.wf]

/-- The addresses of a write are the old ones and the one written. -/
theorem Memory.mem_write (m : Memory) (a : Nat) (v : Byte) (x : Host.Cell) (h : x ∈ m.write a v) :
    (x = (a, v) ∧ v ≠ Memory.unlisted) ∨ x ∈ m := by
  have hent : ∀ rest : Memory, x ∈ Memory.entry a v rest → (x = (a, v) ∧ v ≠ Memory.unlisted) ∨ x ∈ rest := by
    intro rest hx
    unfold Memory.entry at hx
    split at hx
    · exact .inr hx
    · rcases List.mem_cons.mp hx with rfl | hx
      · exact .inl ⟨rfl, ‹_›⟩
      · exact .inr hx
  induction m with
  | nil => exact hent [] h
  | cons y rest ih =>
    simp only [Memory.write] at h
    split at h
    · exact hent _ h
    · split at h
      · rcases hent _ h with h | h
        · exact .inl h
        · exact .inr (by simp [h])
      · rcases List.mem_cons.mp h with rfl | h
        · exact .inr (by simp)
        · rcases ih h with h | h
          · exact .inl h
          · exact .inr (by simp [h])

/-- A write keeps the canonical form. -/
theorem Memory.write_wf (m : Memory) (a : Nat) (v : Byte) (ha : a < 2 ^ 32) (h : m.wf) : (m.write a v).wf := by
  refine ⟨?_, fun x hx => ?_⟩
  · have hs := h.1
    clear h
    have hent : ∀ rest : Memory, (∀ x ∈ rest, a < x.1) → rest.Pairwise (fun x y => x.1 < y.1) →
        (Memory.entry a v rest).Pairwise (fun x y => x.1 < y.1) := by
      intro rest hlt hr
      unfold Memory.entry
      split
      · exact hr
      · exact List.pairwise_cons.mpr ⟨hlt, hr⟩
    induction m with
    | nil => exact hent [] (by simp) hs
    | cons y rest ih =>
      have hs' := List.pairwise_cons.mp hs
      simp only [Memory.write]
      split
      · rename_i hay
        refine hent _ (fun x hx => ?_) hs
        rcases List.mem_cons.mp hx with rfl | hx
        · exact hay
        · exact lt_trans hay (hs'.1 x hx)
      · split
        · rename_i _ hay
          exact hent _ (fun x hx => hay ▸ hs'.1 x hx) hs'.2
        · rename_i h1 h2
          refine List.pairwise_cons.mpr ⟨fun x hx => ?_, ih hs'.2⟩
          rcases Memory.mem_write rest a v x hx with ⟨rfl, -⟩ | hx
          · exact lt_of_le_of_ne (not_lt.mp h1) (Ne.symm h2)
          · exact hs'.1 x hx
  · rcases Memory.mem_write m a v x hx with ⟨rfl, hv⟩ | hx
    · exact ⟨hv, ha⟩
    · exact h.2 x hx

/-! ## Sequences of stores -/

theorem canRead_lt {p : Params} {a : Nat} (h : canRead p a = true) : a < 2 ^ 32 := by
  simp only [canRead, Bool.and_eq_true, decide_eq_true_eq] at h; exact h.1

theorem canWrite_lt {p : Params} {a : Nat} (h : canWrite p a = true) : a < 2 ^ 32 := by
  simp only [canWrite, Bool.and_eq_true, decide_eq_true_eq] at h; exact h.1

/-- The memory after every store of a list, in order. -/
def writeList (m : Memory) (l : List Host.Cell) : Memory := l.foldl (fun m x => Memory.write m x.1 x.2) m

@[simp] theorem writeList_nil (m : Memory) : writeList m [] = m := rfl
@[simp] theorem writeList_cons (m : Memory) (x : Host.Cell) (l : List Host.Cell) :
    writeList m (x :: l) = writeList (m.write x.1 x.2) l := rfl

/-- Everything `storeAll` can do: all stores are admitted and performed, or a first one is not and those before it
have been performed. -/
theorem storeAll_cases (p : Params) (m : Memory) (l : List Host.Cell) :
    ((∀ x ∈ l, canWrite p x.1 = true) ∧ storeAll p m l = (writeList m l, true)) ∨
    (∃ l₁ x l₂, l = l₁ ++ x :: l₂ ∧ (∀ y ∈ l₁, canWrite p y.1 = true) ∧ canWrite p x.1 = false ∧
      storeAll p m l = (writeList m l₁, false)) := by
  induction l generalizing m with
  | nil => exact .inl ⟨by simp, rfl⟩
  | cons x rest ih =>
    obtain ⟨a, v⟩ := x
    by_cases h : canWrite p a = true
    · simp only [storeAll, if_pos h]
      rcases ih (m.write a v) with ⟨h1, h2⟩ | ⟨l₁, y, l₂, h1, h2, h3, h4⟩
      · exact .inl ⟨by simpa [h] using h1, h2⟩
      · exact .inr ⟨(a, v) :: l₁, y, l₂, by simp [h1], by simpa [h] using h2, h3, h4⟩
    · exact .inr ⟨[], (a, v), rest, rfl, by simp, by simpa using h, by simp [storeAll, h]⟩

theorem storeAll_ok {p : Params} {l : List Host.Cell} (m : Memory) (h : ∀ x ∈ l, canWrite p x.1 = true) :
    storeAll p m l = (writeList m l, true) := by
  rcases storeAll_cases p m l with ⟨-, h2⟩ | ⟨l₁, x, l₂, rfl, -, h3, -⟩
  · exact h2
  · have := h x (by simp)
    simp [h3] at this

theorem writeList_wf (m : Memory) (l : List Host.Cell) (hl : ∀ x ∈ l, x.1 < 2 ^ 32) (h : m.wf) :
    (writeList m l).wf := by
  induction l generalizing m with
  | nil => exact h
  | cons x rest ih => exact ih _ (fun y hy => hl y (by simp [hy])) (Memory.write_wf m x.1 x.2 (hl x (by simp)) h)

/-- A byte no store names reads as before. -/
theorem read_writeList_of_not_mem (m : Memory) (l : List Host.Cell) (a : Nat) (hl : ∀ x ∈ l, x.1 < 2 ^ 32)
    (h : m.wf) (ha : ∀ x ∈ l, x.1 ≠ a) : (writeList m l).read a = m.read a := by
  induction l generalizing m with
  | nil => rfl
  | cons x rest ih =>
    rw [writeList_cons, ih _ (fun y hy => hl y (by simp [hy])) (Memory.write_wf m _ _ (hl x (by simp)) h)
      (fun y hy => ha y (by simp [hy])), Memory.read_write m _ _ _ h, if_neg (Ne.symm (ha x (by simp)))]

/-- A store to an address that no other store of the list names is what is read there. -/
theorem read_writeList_of_mem (m : Memory) (l : List Host.Cell) (x : Host.Cell) (hl : ∀ y ∈ l, y.1 < 2 ^ 32)
    (h : m.wf) (hd : l.Pairwise (fun y z => y.1 ≠ z.1)) (hx : x ∈ l) : (writeList m l).read x.1 = x.2 := by
  induction l generalizing m with
  | nil => simp at hx
  | cons y rest ih =>
    have hd' := List.pairwise_cons.mp hd
    have hw := Memory.write_wf m y.1 y.2 (hl y (by simp)) h
    rcases List.mem_cons.mp hx with rfl | hx
    · rw [writeList_cons, read_writeList_of_not_mem _ _ _ (fun z hz => hl z (by simp [hz])) hw
        (fun z hz => (hd'.1 z hz).symm), Memory.read_write m _ _ _ h, if_pos rfl]
    · exact ih _ (fun z hz => hl z (by simp [hz])) hw hd'.2 hx

theorem storeAll_wf (p : Params) (m : Memory) (l : List Host.Cell) (h : m.wf) : (storeAll p m l).1.wf := by
  rcases storeAll_cases p m l with ⟨h1, h2⟩ | ⟨l₁, x, l₂, rfl, h2, -, h4⟩
  · rw [h2]; exact writeList_wf m l (fun x hx => canWrite_lt (h1 x hx)) h
  · rw [h4]; exact writeList_wf m l₁ (fun x hx => canWrite_lt (h2 x hx)) h

/-- Whether or not every store is admitted, a byte no store names reads as before. -/
theorem read_storeAll_of_not_mem (p : Params) (m : Memory) (l : List Host.Cell) (a : Nat) (h : m.wf)
    (ha : ∀ x ∈ l, x.1 ≠ a) : (storeAll p m l).1.read a = m.read a := by
  rcases storeAll_cases p m l with ⟨h1, h2⟩ | ⟨l₁, x, l₂, rfl, h2, -, h4⟩
  · rw [h2]; exact read_writeList_of_not_mem m l a (fun x hx => canWrite_lt (h1 x hx)) h ha
  · rw [h4]
    exact read_writeList_of_not_mem m l₁ a (fun x hx => canWrite_lt (h2 x hx)) h fun x hx => ha x (by simp [hx])

/-! ## COPYROW -/

theorem copyBytes_wf (p : Params) (src dst : Nat) (m : Memory) (i n : Nat) (h : m.wf) :
    (copyBytes p src dst m i n).1.wf := by
  induction n generalizing m i with
  | zero => exact h
  | succ n ih =>
    simp only [copyBytes]
    split
    · rename_i hc
      simp only [Bool.and_eq_true] at hc
      exact ih _ _ (Memory.write_wf m _ _ (canWrite_lt hc.2) h)
    · exact h

/-- A byte outside the bytes still to be copied reads as before. -/
theorem read_copyBytes_outside (p : Params) (src dst : Nat) (m : Memory) (i n a : Nat) (h : m.wf)
    (ha : a < dst + i ∨ dst + i + n ≤ a) : (copyBytes p src dst m i n).1.read a = m.read a := by
  induction n generalizing m i with
  | zero => rfl
  | succ n ih =>
    simp only [copyBytes]
    split
    · rename_i hc
      simp only [Bool.and_eq_true] at hc
      rw [ih _ _ (Memory.write_wf m _ _ (canWrite_lt hc.2) h) (by omega), Memory.read_write m _ _ _ h,
        if_neg (by omega)]
    · rfl

/-- When every access is admitted, the copy ends and each byte copied holds the byte it was copied from, for two
rows that do not overlap or are the same. -/
theorem copyBytes_ok (p : Params) (src dst : Nat) (m : Memory) (i n : Nat) (h : m.wf)
    (hd : src + i + n ≤ dst + i ∨ dst + i + n ≤ src + i ∨ src = dst)
    (hr : ∀ j, i ≤ j → j < i + n → canRead p (src + j) = true ∧ canWrite p (dst + j) = true) :
    (copyBytes p src dst m i n).2 = true ∧
    ∀ j, i ≤ j → j < i + n → (copyBytes p src dst m i n).1.read (dst + j) = m.read (src + j) := by
  induction n generalizing m i with
  | zero => exact ⟨rfl, fun j h1 h2 => by omega⟩
  | succ n ih =>
    obtain ⟨hc1, hc2⟩ := hr i (le_refl _) (by omega)
    have hw := Memory.write_wf m (dst + i) (m.read (src + i)) (canWrite_lt hc2) h
    have hstep : copyBytes p src dst m i (n + 1) =
        copyBytes p src dst (m.write (dst + i) (m.read (src + i))) (i + 1) n := by
      simp [copyBytes, hc1, hc2]
    obtain ⟨h1, h2⟩ := ih (m.write (dst + i) (m.read (src + i))) (i + 1) hw (by omega)
      (fun j hj1 hj2 => hr j (by omega) (by omega))
    rw [hstep]
    refine ⟨h1, fun j hj1 hj2 => ?_⟩
    by_cases hji : j = i
    · subst hji
      rw [read_copyBytes_outside p src dst _ _ _ _ hw (by omega), Memory.read_write m _ _ _ h, if_pos rfl]
    · rw [h2 j (by omega) (by omega), Memory.read_write m _ _ _ h]
      split
      · rename_i heq
        rcases hd with hd | hd | hd
        · omega
        · omega
        · subst hd; omega
      · rfl

/-- A first access that is not admitted ends the copy: what it leaves is the copy of the bytes before it (R212). -/
theorem copyBytes_refused (p : Params) (src dst : Nat) (m : Memory) (i k n : Nat) (hk : k < n)
    (hr : ∀ j < k, canRead p (src + (i + j)) = true ∧ canWrite p (dst + (i + j)) = true)
    (hx : canRead p (src + (i + k)) = false ∨ canWrite p (dst + (i + k)) = false) :
    copyBytes p src dst m i n = ((copyBytes p src dst m i k).1, false) := by
  induction k generalizing m i n with
  | zero =>
    obtain ⟨n, rfl⟩ : ∃ n', n = n' + 1 := ⟨n - 1, by omega⟩
    rcases hx with hx | hx <;> simp_all [copyBytes]
  | succ k ih =>
    obtain ⟨n, rfl⟩ : ∃ n', n = n' + 1 := ⟨n - 1, by omega⟩
    obtain ⟨h1, h2⟩ := hr 0 (by omega)
    have ha : i + (k + 1) = i + 1 + k := by omega
    simp only [Nat.add_zero] at h1 h2
    simp only [copyBytes, h1, h2, Bool.and_self, if_true]
    refine ih _ (i + 1) n (by omega) (fun j hj => ?_) (by rwa [ha] at hx)
    have := hr (j + 1) (by omega)
    rwa [show i + (j + 1) = i + 1 + j by omega] at this

/-! ## Drawn bytes -/

theorem drawBytes_wf (pick : Nat → Bool) (base d : Nat) (m : Memory) (n : Nat) (h : m.wf) :
    (drawBytes pick base d m n).wf := by
  induction n with
  | zero => exact h
  | succ n ih =>
    simp only [drawBytes]
    split
    · rename_i hc
      simp only [Bool.and_eq_true, decide_eq_true_eq] at hc
      exact Memory.write_wf _ _ _ hc.2 ih
    · exact ih

/-- What each byte reads after `drawBytes`: the draw of its place if it is one of the `n` bytes, `pick` selects it
and it lies in the data space, and what it was otherwise. -/
theorem read_drawBytes (pick : Nat → Bool) (base d : Nat) (m : Memory) (n a : Nat) (h : m.wf) :
    (drawBytes pick base d m n).read a =
      if base ≤ a ∧ a < base + n ∧ pick a = true ∧ a < 2 ^ 32 then Config.draw8 (d + (a - base)) else m.read a := by
  induction n with
  | zero => simp only [drawBytes]; rw [if_neg (by omega)]
  | succ n ih =>
    simp only [drawBytes]
    split
    · rename_i hc
      simp only [Bool.and_eq_true, decide_eq_true_eq] at hc
      rw [Memory.read_write _ _ _ _ (drawBytes_wf pick base d m n h), ih]
      by_cases ha : a = base + n
      · subst ha
        rw [if_pos rfl, if_pos ⟨by omega, by omega, hc.1, hc.2⟩, Nat.add_sub_cancel_left]
      · rw [if_neg ha]
        refine if_congr ?_ rfl rfl
        constructor
        · rintro ⟨h1, h2, h3⟩; exact ⟨h1, by omega, h3⟩
        · rintro ⟨h1, h2, h3⟩; exact ⟨h1, by omega, h3⟩
    · rename_i hc
      rw [ih]
      refine if_congr ?_ rfl rfl
      constructor
      · rintro ⟨h1, h2, h3⟩; exact ⟨h1, by omega, h3⟩
      · rintro ⟨h1, h2, h3⟩
        refine ⟨h1, ?_, h3⟩
        by_contra hlt
        have : a = base + n := by omega
        subst this
        exact hc (Bool.and_eq_true_iff.mpr ⟨h3.1, decide_eq_true h3.2⟩)

end Sys2Proof.Machine
end

