-- ==== Sys2Proof/Laws/Encoding.lean ====
section
/-!
SUPPORT. The laws of the code tables and of the two words: each field is read back from the word it was packed
into.
-/

namespace Sys2Proof

@[simp] theorem patternOfCode_code (p : Pattern) : patternOfCode p.code = p := by cases p <;> rfl

@[simp] theorem code_patternOfCode (c : BitVec 2) : (patternOfCode c).code = c := by
  revert c; decide

@[simp] theorem formatOfCode_code (f : Format) : formatOfCode f.code = some f := by cases f <;> rfl

/-- A code names a format exactly when it is that format's code. -/
theorem formatOfCode_eq_some {c : BitVec 5} {f : Format} : formatOfCode c = some f ↔ c = f.code := by
  revert c f; intro c f; cases f <;> revert c <;> decide

/-- Exactly the codes above 0x11 name no format (R84). -/
theorem formatOfCode_eq_none {c : BitVec 5} : formatOfCode c = none ↔ 0x12 ≤ c.toNat := by
  revert c; decide

@[simp] theorem cfgFormat_packCfg (c : BitVec 5) (p : Pattern) : cfgFormat (packCfg c p) = c := by
  cases p <;> revert c <;> decide

@[simp] theorem cfgPattern_packCfg (c : BitVec 5) (p : Pattern) : cfgPattern (packCfg c p) = p := by
  cases p <;> revert c <;> decide

@[simp] theorem packTx_write (w : Bool) (o : BitVec 8) : (packTx w o).getLsbD 8 = w := by
  cases w <;> revert o <;> decide

@[simp] theorem packTx_offset (w : Bool) (o : BitVec 8) : (packTx w o).extractLsb' 0 8 = o := by
  cases w <;> revert o <;> decide

/-- OFFSET[1:0] of a packed word is 0b00 exactly for an aligned offset. -/
theorem packTx_aligned (w : Bool) (o : BitVec 8) : (packTx w o).extractLsb' 0 2 = 0 ↔ o.toNat % 4 = 0 := by
  cases w <;> revert o <;> decide

/-- A job word decodes by its FORMAT code alone, with its PATTERN as operand (R88). -/
theorem decodeJob_packCfg (n : Nat) (f : Format) (p : Pattern) : decodeJob n (packCfg f.code p) = jobInstr n p f := by
  simp [decodeJob]

/-- The job word of a format's operation. -/
theorem encode_jobInstr (n : Nat) (p : Pattern) (f : Format) : encode (jobInstr n p f) = .job n (packCfg f.code p) := by
  cases f <;> rfl

/-- Decoding an aligned 32-bit read. -/
theorem decode_encodeRead (n : Nat) (o : BitVec 8) (h : o.toNat % 4 = 0) :
    decode (encodeRead n o) = .ok (readAt n o) := by
  change decodeTx n (packTx false o) 0 = _
  rw [decodeTx, if_pos ((packTx_aligned _ _).mpr h), packTx_write, packTx_offset]
  rfl

/-- Decoding an aligned 32-bit write. -/
theorem decode_encodeWrite (n : Nat) (o : BitVec 8) (w : Word) (h : o.toNat % 4 = 0) :
    decode (encodeWrite n o w) = .ok (writeAt n o w) := by
  change decodeTx n (packTx true o) w = _
  rw [decodeTx, if_pos ((packTx_aligned _ _).mpr h), packTx_write, packTx_offset]
  rfl

/-- At a reserved offset the two register operations are the reserved ones (R89). -/
theorem readAt_reserved (n : Nat) (o : BitVec 8) (h : reservedOffset o = true) : readAt n o = .rdRsvd n o := by
  have key : ∀ o : BitVec 8, reservedOffset o = true →
      o ≠ 0x00 ∧ o ≠ 0x04 ∧ o ≠ 0x08 ∧ o ≠ 0x0C ∧ o ≠ 0x10 ∧ o ≠ 0x14 ∧ o ≠ 0x18 ∧ o ≠ 0x1C ∧ o ≠ 0x20 := by decide
  obtain ⟨h1, h2, h3, h4, h5, h6, h7, h8, h9⟩ := key o h
  rw [readAt, if_neg h1, if_neg h2, if_neg h3, if_neg h4, if_neg h5, if_neg h6, if_neg h7, if_neg h8, if_neg h9]

theorem writeAt_reserved (n : Nat) (o : BitVec 8) (w : Word) (h : reservedOffset o = true) :
    writeAt n o w = .wrRsvd n o w := by
  have key : ∀ o : BitVec 8, reservedOffset o = true →
      o ≠ 0x00 ∧ o ≠ 0x04 ∧ o ≠ 0x08 ∧ o ≠ 0x0C ∧ o ≠ 0x10 ∧ o ≠ 0x14 ∧ o ≠ 0x18 ∧ o ≠ 0x1C ∧ o ≠ 0x20 := by decide
  obtain ⟨h1, h2, h3, h4, h5, h6, h7, h8, h9⟩ := key o h
  rw [writeAt, if_neg h1, if_neg h2, if_neg h3, if_neg h4, if_neg h5, if_neg h6, if_neg h7, if_neg h8, if_neg h9]

theorem reservedOffset_aligned {o : BitVec 8} (h : reservedOffset o = true) : o.toNat % 4 = 0 := by
  simp only [reservedOffset, decide_eq_true_eq] at h; exact h.2

end Sys2Proof
end

