-- ==== Sys2Proof/Laws/Ops.lean ====
section
/-!
SUPPORT. One lemma per shared operation, which says once everything it can do; later proofs cite it and do not
unfold the operation.
-/

namespace Sys2Proof.Machine

/-! ## Operations on one instance -/

/-- An operation on an instance either answers, on an instance the platform has, or stops because it has none. -/
theorem withInst_cases (n : Nat) (f : Engine → State) (s : State) :
    (∃ e, s.insts[n]? = some e ∧ withInst n f s = .next (f e)) ∨
    (s.insts[n]? = none ∧ withInst n f s = .fault .noInstance) := by
  cases h : s.insts[n]? with
  | some e => exact .inl ⟨e, rfl, by simp only [withInst, h]⟩
  | none => exact .inr ⟨rfl, by simp only [withInst, h]⟩

theorem withInst_some {n : Nat} {e : Engine} {s : State} (f : Engine → State) (h : s.insts[n]? = some e) :
    withInst n f s = .next (f e) := by simp only [withInst, h]

theorem withInst_next {n : Nat} {f : Engine → State} {s t : State} (h : withInst n f s = .next t) :
    ∃ e, s.insts[n]? = some e ∧ t = f e := by
  rcases withInst_cases n f s with ⟨e, he, h'⟩ | ⟨-, h'⟩
  · exact ⟨e, he, by rw [h'] at h; injection h with h; exact h.symm⟩
  · rw [h'] at h; cases h

theorem readReg_some {n : Nat} {e : Engine} {s : State} (word : Engine → Word) (h : s.insts[n]? = some e) :
    readReg n word s = .next (s.setRdata (word e)) := withInst_some _ h

theorem writeReg_some {n : Nat} {e : Engine} {s : State} (upd : Engine → Engine) (h : s.insts[n]? = some e) :
    writeReg n upd s = .next (s.setInst n (upd e)) := withInst_some _ h

theorem writeConfig_idle {n : Nat} {e : Engine} {s : State} (upd : Engine → Engine) (h : s.insts[n]? = some e)
    (hb : e.busy = false) : writeConfig n upd s = .next (s.setInst n (upd e)) := by
  rw [writeConfig, writeReg_some _ h, hb]; rfl

theorem writeConfig_busy {n : Nat} {e : Engine} {s : State} (upd : Engine → Engine) (h : s.insts[n]? = some e)
    (hb : e.busy = true) : writeConfig n upd s = .next s := by
  rw [writeConfig, writeReg_some _ h, hb, if_pos rfl, State.setInst_self s n e h]

/-! ## START -/

/-- What noting an overlap leaves: an instance that differs at most in `clash`, and only if it is BUSY. -/
theorem noteClash_cases (p : Params) (fp : Footprint) (e : Engine) :
    ∃ l, e.noteClash p fp = { e with clash := l } ∧ (e.busy = false → l = e.clash) := by
  unfold Engine.noteClash
  split
  · rename_i h
    exact ⟨fp :: e.clash, rfl, fun hb => by simp [Engine.meets, hb] at h⟩
  · exact ⟨e.clash, rfl, fun _ => rfl⟩

theorem acceptStart_length (n : Nat) (e : Engine) (s : State) :
    (acceptStart n e s).insts.length = s.insts.length := by simp [acceptStart]

/-- The instance that is started (R160). -/
theorem acceptStart_self {n : Nat} {d : Engine} {s : State} (e : Engine) (h : s.insts[n]? = some d) :
    (acceptStart n e s).insts[n]? =
      some { e.started with
        raced := false
        clash := (s.insts.filter (Engine.meets s.params (e.footprint s.params))).map (Engine.footprint s.params) } := by
  obtain ⟨hn, -⟩ := List.getElem?_eq_some_iff.mp h
  simp [acceptStart, hn]

/-- Every other instance only notes the overlap (R70). -/
theorem acceptStart_other {n m : Nat} (e : Engine) (s : State) (h : m ≠ n) :
    (acceptStart n e s).insts[m]? = (s.insts[m]?).map (Engine.noteClash s.params (e.footprint s.params)) := by
  simp [acceptStart, List.getElem?_set_ne (Ne.symm h)]

/-- `acceptStart` changes the instances alone. -/
theorem acceptStart_eq (n : Nat) (e : Engine) (s : State) :
    acceptStart n e s = { s with insts := (acceptStart n e s).insts } := rfl

/-! ## Faults and completion -/

/-- What an engine step that did not fault leaves (R169). -/
theorem commit_of_ok {s : State} {n : Nat} {w : Work} (h : w.eng.phase ≠ .faulted) :
    s.commit n w = { s with insts := s.insts.set n w.eng, mem := w.mem, draws := w.draws } := by
  simp only [State.commit, if_neg h, State.setInst]

/-- What an engine step that met a refused access leaves (R214). -/
theorem commit_of_faulted {s : State} {n : Nat} {w : Work} (h : w.eng.phase = .faulted) :
    s.commit n w = { s with
      insts := s.insts.set n w.eng, mem := w.mem, draws := w.draws, faults := { s.faults with mem := true } } := by
  simp only [State.commit, if_pos h, State.setInst, State.addFaults, FaultSet.union, FaultSet.memOnly, FaultSet.empty,
    Bool.or_false, Bool.or_true]

/-- A race opens every byte, whatever the code (R65). -/
theorem openByte_of_raced {e : Engine} (code : ResultCode) (a : Nat) (h : e.raced = true) :
    e.openByte code a = true := by simp [Engine.openByte, h]

/-- The bytes of a job that ends without a race, and with an error code or without an overlap, are as they are (R65,
R70). -/
theorem settleBytes_of_clean {code : ResultCode} {fp : Footprint} {e : Engine} {s : State} (hr : e.raced = false)
    (hc : e.openClash code = []) : settleBytes code fp e s = s := by simp [settleBytes, hr, hc]

/-- The bytes of a job that a host write raced: every byte of DstFP is drawn, whatever the code (R65, R239). -/
theorem settleBytes_of_raced {code : ResultCode} {fp : Footprint} {e : Engine} {s : State} (hr : e.raced = true) :
    settleBytes code fp e s =
      { s with
        mem := drawBytes (e.openByte code) fp.dstBase s.draws s.mem fp.dstSize, draws := s.draws + fp.dstSize } := by
  simp [settleBytes, hr, State.setMem, State.takeDraws]

/-- Everything `settleBytes` can do: it draws the open bytes of DstFP, or changes nothing. -/
theorem settleBytes_cases (code : ResultCode) (fp : Footprint) (e : Engine) (s : State) :
    settleBytes code fp e s = s ∨
    settleBytes code fp e s =
      { s with
        mem := drawBytes (e.openByte code) fp.dstBase s.draws s.mem fp.dstSize, draws := s.draws + fp.dstSize } := by
  unfold settleBytes
  split
  · exact .inr rfl
  · exact .inl rfl

/-- Everything `complete` does (R176): the flags and the code of one instance, and the bytes a race or an overlap left
open; nothing else. -/
theorem complete_eq (code : ResultCode) (fmt : Option Format) (n : Nat) (e : Engine) (s : State) :
    complete code fmt n e s =
      { s with
        insts := s.insts.set n { e.completed code with raced := false, clash := [] }
        mem := (settleBytes code (footprintOf s.params fmt e.frame) e s).mem
        draws := (settleBytes code (footprintOf s.params fmt e.frame) e s).draws } := by
  unfold complete
  rcases settleBytes_cases code (footprintOf s.params fmt e.frame) e s with h | h <;> rw [h] <;> rfl

/-- A completion keeps the canonical form of the data space. -/
theorem complete_wf (code : ResultCode) (fmt : Option Format) (n : Nat) (e : Engine) (s : State) (h : s.mem.wf) :
    (complete code fmt n e s).mem.wf := by
  rw [complete_eq]
  rcases settleBytes_cases code (footprintOf s.params fmt e.frame) e s with h' | h' <;> rw [h']
  · exact h
  · exact drawBytes_wf _ _ _ _ _ h

/-- A job without a destination footprint (a reserved format) leaves the data space at its completion. -/
theorem complete_unsupported (code : ResultCode) (n : Nat) (e : Engine) (s : State) :
    complete code none n e s =
      { s with insts := s.insts.set n { e.completed code with raced := false, clash := [] } } := by
  rw [complete_eq]
  rcases settleBytes_cases code (footprintOf s.params none e.frame) e s with h | h <;> rw [h] <;> rfl

/-- The union with a set holds both (R40). -/
theorem FaultSet.union_left (a b : FaultSet) : a.union (a.union b) = a.union b := by
  cases a; cases b; simp [FaultSet.union]

@[simp] theorem FaultSet.union_self (a : FaultSet) : a.union a = a := by cases a; simp [FaultSet.union]

/-! ## Job operations -/

/-- A job operation of a supported format is one engine step of R169. -/
theorem exec_jobInstr (n : Nat) (p : Pattern) (fmt : Format) (s : State) :
    exec (jobInstr n p fmt) s = driverStep fmt n p s := by cases fmt <;> rfl

/-- What an engine step of an instance that exists answers. -/
theorem driverStep_some {n : Nat} {e : Engine} {s : State} (fmt : Format) (p : Pattern) (h : s.insts[n]? = some e) :
    driverStep fmt n p s = .next (match e.phase with
      | .idle => s
      | .validate => validateStep fmt n p e s
      | .rows => rowsStep fmt n e s
      | .border => borderStep fmt n e s
      | .faulted => s) := withInst_some _ h

theorem exec_validate {n : Nat} {e : Engine} {s : State} (fmt : Format) (p : Pattern) (h : s.insts[n]? = some e)
    (hp : e.phase = .validate) : exec (jobInstr n p fmt) s = .next (validateStep fmt n p e s) := by
  rw [exec_jobInstr, driverStep_some _ _ h, hp]

theorem exec_rows {n : Nat} {e : Engine} {s : State} (fmt : Format) (p : Pattern) (h : s.insts[n]? = some e)
    (hp : e.phase = .rows) : exec (jobInstr n p fmt) s = .next (rowsStep fmt n e s) := by
  rw [exec_jobInstr, driverStep_some _ _ h, hp]

theorem exec_border {n : Nat} {e : Engine} {s : State} (fmt : Format) (p : Pattern) (h : s.insts[n]? = some e)
    (hp : e.phase = .border) : exec (jobInstr n p fmt) s = .next (borderStep fmt n e s) := by
  rw [exec_jobInstr, driverStep_some _ _ h, hp]

theorem exec_unsupported {n : Nat} {e : Engine} {s : State} (c : BitVec 5) (p : Pattern) (h : s.insts[n]? = some e) :
    exec (.dmsUnsupported n c p) s = .next (match e.phase with
      | .idle => s
      | .validate | .rows | .border => validateUnsupported n e s
      | .faulted => s) := withInst_some _ h

/-- A job operation that the job word of an instance decodes to: a supported format's, or UNSUPPORTED (R88). -/
theorem jobInstr_cases (n : Nat) (e : Engine) :
    (∃ fmt, formatOfCode e.format = some fmt ∧ e.jobInstr n = Sys2Proof.jobInstr n e.pattern fmt) ∨
    (formatOfCode e.format = none ∧ e.jobInstr n = .dmsUnsupported n e.format e.pattern) := by
  cases h : formatOfCode e.format with
  | some fmt => exact .inl ⟨fmt, rfl, by simp [Engine.jobInstr, Engine.cfgWord, decodeJob, h]⟩
  | none => exact .inr ⟨rfl, by simp [Engine.jobInstr, Engine.cfgWord, decodeJob, h]⟩

end Sys2Proof.Machine
end

