-- ==== Sys2Proof/Laws/PerInstr.lean ====
section
/-!
SUPPORT. Statements made per operation. RoundTrip: decoding the encoded object of a well-formed operation gives it
back, with every operand (R81 to R84, R89).
-/

/-- Decode after encode is the identity on this operation. -/
def Sys2Proof.Laws.RoundTrip.Statement (i : Sys2Proof.Instr) : Prop :=
  i.wf = true → Sys2Proof.decode (Sys2Proof.encode i) = .ok i

namespace Sys2Proof.Laws

open Sys2Proof

theorem RoundTrip.dmsAlpha8 (n : Nat) (p : Pattern) : RoundTrip.Statement (.dmsAlpha8 n p) :=
  fun _ => congrArg Except.ok (decodeJob_packCfg n .alpha8 p)

theorem RoundTrip.dmsArgb8888 (n : Nat) (p : Pattern) : RoundTrip.Statement (.dmsArgb8888 n p) :=
  fun _ => congrArg Except.ok (decodeJob_packCfg n .argb8888 p)

theorem RoundTrip.dmsArgb4444 (n : Nat) (p : Pattern) : RoundTrip.Statement (.dmsArgb4444 n p) :=
  fun _ => congrArg Except.ok (decodeJob_packCfg n .argb4444 p)

theorem RoundTrip.dmsArgb1555 (n : Nat) (p : Pattern) : RoundTrip.Statement (.dmsArgb1555 n p) :=
  fun _ => congrArg Except.ok (decodeJob_packCfg n .argb1555 p)

theorem RoundTrip.dmsRgba8888 (n : Nat) (p : Pattern) : RoundTrip.Statement (.dmsRgba8888 n p) :=
  fun _ => congrArg Except.ok (decodeJob_packCfg n .rgba8888 p)

theorem RoundTrip.dmsRgba4444 (n : Nat) (p : Pattern) : RoundTrip.Statement (.dmsRgba4444 n p) :=
  fun _ => congrArg Except.ok (decodeJob_packCfg n .rgba4444 p)

theorem RoundTrip.dmsRgba5551 (n : Nat) (p : Pattern) : RoundTrip.Statement (.dmsRgba5551 n p) :=
  fun _ => congrArg Except.ok (decodeJob_packCfg n .rgba5551 p)

theorem RoundTrip.dmsBgr888 (n : Nat) (p : Pattern) : RoundTrip.Statement (.dmsBgr888 n p) :=
  fun _ => congrArg Except.ok (decodeJob_packCfg n .bgr888 p)

theorem RoundTrip.dmsRgb888 (n : Nat) (p : Pattern) : RoundTrip.Statement (.dmsRgb888 n p) :=
  fun _ => congrArg Except.ok (decodeJob_packCfg n .rgb888 p)

theorem RoundTrip.dmsRgb565 (n : Nat) (p : Pattern) : RoundTrip.Statement (.dmsRgb565 n p) :=
  fun _ => congrArg Except.ok (decodeJob_packCfg n .rgb565 p)

theorem RoundTrip.dmsYv12 (n : Nat) (p : Pattern) : RoundTrip.Statement (.dmsYv12 n p) :=
  fun _ => congrArg Except.ok (decodeJob_packCfg n .yv12 p)

theorem RoundTrip.dmsI420 (n : Nat) (p : Pattern) : RoundTrip.Statement (.dmsI420 n p) :=
  fun _ => congrArg Except.ok (decodeJob_packCfg n .i420 p)

theorem RoundTrip.dmsNv12 (n : Nat) (p : Pattern) : RoundTrip.Statement (.dmsNv12 n p) :=
  fun _ => congrArg Except.ok (decodeJob_packCfg n .nv12 p)

theorem RoundTrip.dmsNv21 (n : Nat) (p : Pattern) : RoundTrip.Statement (.dmsNv21 n p) :=
  fun _ => congrArg Except.ok (decodeJob_packCfg n .nv21 p)

theorem RoundTrip.dmsI422 (n : Nat) (p : Pattern) : RoundTrip.Statement (.dmsI422 n p) :=
  fun _ => congrArg Except.ok (decodeJob_packCfg n .i422 p)

theorem RoundTrip.dmsUyvy (n : Nat) (p : Pattern) : RoundTrip.Statement (.dmsUyvy n p) :=
  fun _ => congrArg Except.ok (decodeJob_packCfg n .uyvy p)

theorem RoundTrip.dmsYuy2 (n : Nat) (p : Pattern) : RoundTrip.Statement (.dmsYuy2 n p) :=
  fun _ => congrArg Except.ok (decodeJob_packCfg n .yuy2 p)

theorem RoundTrip.dmsI444 (n : Nat) (p : Pattern) : RoundTrip.Statement (.dmsI444 n p) :=
  fun _ => congrArg Except.ok (decodeJob_packCfg n .i444 p)

theorem RoundTrip.dmsUnsupported (n : Nat) (c : BitVec 5) (p : Pattern) : RoundTrip.Statement (.dmsUnsupported n c p) := by
  intro h
  have hc : formatOfCode c = none := formatOfCode_eq_none.mpr (of_decide_eq_true h)
  simp [encode, decode, decodeJob, hc]

theorem RoundTrip.rdCtrl (n : Nat) : RoundTrip.Statement (.rdCtrl n) := fun _ => rfl

theorem RoundTrip.rdStatus (n : Nat) : RoundTrip.Statement (.rdStatus n) := fun _ => rfl

theorem RoundTrip.rdResult (n : Nat) : RoundTrip.Statement (.rdResult n) := fun _ => rfl

theorem RoundTrip.rdCfg (n : Nat) : RoundTrip.Statement (.rdCfg n) := fun _ => rfl

theorem RoundTrip.rdRawAddr (n : Nat) : RoundTrip.Statement (.rdRawAddr n) := fun _ => rfl

theorem RoundTrip.rdRawStride (n : Nat) : RoundTrip.Statement (.rdRawStride n) := fun _ => rfl

theorem RoundTrip.rdWidth (n : Nat) : RoundTrip.Statement (.rdWidth n) := fun _ => rfl

theorem RoundTrip.rdHeight (n : Nat) : RoundTrip.Statement (.rdHeight n) := fun _ => rfl

theorem RoundTrip.rdDstAddr (n : Nat) : RoundTrip.Statement (.rdDstAddr n) := fun _ => rfl

theorem RoundTrip.wrCtrl (n : Nat) (w : Word) : RoundTrip.Statement (.wrCtrl n w) := fun _ => rfl

theorem RoundTrip.wrStatus (n : Nat) (w : Word) : RoundTrip.Statement (.wrStatus n w) := fun _ => rfl

theorem RoundTrip.wrResult (n : Nat) (w : Word) : RoundTrip.Statement (.wrResult n w) := fun _ => rfl

theorem RoundTrip.wrCfg (n : Nat) (w : Word) : RoundTrip.Statement (.wrCfg n w) := fun _ => rfl

theorem RoundTrip.wrRawAddr (n : Nat) (w : Word) : RoundTrip.Statement (.wrRawAddr n w) := fun _ => rfl

theorem RoundTrip.wrRawStride (n : Nat) (w : Word) : RoundTrip.Statement (.wrRawStride n w) := fun _ => rfl

theorem RoundTrip.wrWidth (n : Nat) (w : Word) : RoundTrip.Statement (.wrWidth n w) := fun _ => rfl

theorem RoundTrip.wrHeight (n : Nat) (w : Word) : RoundTrip.Statement (.wrHeight n w) := fun _ => rfl

theorem RoundTrip.wrDstAddr (n : Nat) (w : Word) : RoundTrip.Statement (.wrDstAddr n w) := fun _ => rfl

theorem RoundTrip.rdRsvd (n : Nat) (o : BitVec 8) : RoundTrip.Statement (.rdRsvd n o) := fun h => by
  rw [encode, decode_encodeRead n o (reservedOffset_aligned h), readAt_reserved n o h]

theorem RoundTrip.wrRsvd (n : Nat) (o : BitVec 8) (w : Word) : RoundTrip.Statement (.wrRsvd n o w) := fun h => by
  rw [encode, decode_encodeWrite n o w (reservedOffset_aligned h), writeAt_reserved n o w h]

end Sys2Proof.Laws
end

