-- ==== Sys2Proof/Laws/Sinks.lean ====
section
/-!
SUPPORT. The laws of the pixel sinks: each packer as a sum of its fields, the bytes of a pair of pixel words, and the
addresses of every sink, which lie in the job's destination footprint.
-/

namespace Sys2Proof.Machine

/-! ## Packing -/

/-- A field above `n` bits and a value that fits below it. -/
theorem shiftLeft_or_eq (a b n : Nat) (h : b < 2 ^ n) : a <<< n ||| b = a * 2 ^ n + b := by
  rw [← Nat.shiftLeft_add_eq_or_of_lt h, Nat.shiftLeft_eq]

theorem narrow_eq (ch : Byte) (n : Nat) : narrow ch n = ch.toNat / 2 ^ (8 - n) := by
  simp [narrow, Nat.shiftRight_eq_div_pow]

theorem packArgb8888_eq (t : Triple) :
    packArgb8888 t = 0xFF * 2 ^ 24 + t.r.toNat * 2 ^ 16 + t.g.toNat * 2 ^ 8 + t.b.toNat := by
  have hr := t.r.isLt; have hg := t.g.isLt; have hb := t.b.isLt
  simp only [packArgb8888, Nat.lor_assoc]
  rw [shiftLeft_or_eq _ _ 8 (by omega), shiftLeft_or_eq _ _ 16 (by omega), shiftLeft_or_eq _ _ 24 (by omega)]
  omega

theorem packRgba8888_eq (t : Triple) :
    packRgba8888 t = t.r.toNat * 2 ^ 24 + t.g.toNat * 2 ^ 16 + t.b.toNat * 2 ^ 8 + 0xFF := by
  have hr := t.r.isLt; have hg := t.g.isLt; have hb := t.b.isLt
  simp only [packRgba8888, Nat.lor_assoc]
  rw [shiftLeft_or_eq _ _ 8 (by omega), shiftLeft_or_eq _ _ 16 (by omega), shiftLeft_or_eq _ _ 24 (by omega)]
  omega

theorem packArgb4444_eq (t : Triple) :
    packArgb4444 t = 0xF * 2 ^ 12 + t.r.toNat / 16 * 2 ^ 8 + t.g.toNat / 16 * 2 ^ 4 + t.b.toNat / 16 := by
  have hr := t.r.isLt; have hg := t.g.isLt; have hb := t.b.isLt
  simp only [packArgb4444, Nat.lor_assoc, narrow_eq]
  rw [shiftLeft_or_eq _ _ 4 (by omega), shiftLeft_or_eq _ _ 8 (by omega), shiftLeft_or_eq _ _ 12 (by omega)]
  omega

theorem packArgb1555_eq (t : Triple) :
    packArgb1555 t = 2 ^ 15 + t.r.toNat / 8 * 2 ^ 10 + t.g.toNat / 8 * 2 ^ 5 + t.b.toNat / 8 := by
  have hr := t.r.isLt; have hg := t.g.isLt; have hb := t.b.isLt
  simp only [packArgb1555, Nat.lor_assoc, narrow_eq]
  rw [shiftLeft_or_eq _ _ 5 (by omega), shiftLeft_or_eq _ _ 10 (by omega), shiftLeft_or_eq _ _ 15 (by omega)]
  omega

theorem packRgba4444_eq (t : Triple) :
    packRgba4444 t = t.r.toNat / 16 * 2 ^ 12 + t.g.toNat / 16 * 2 ^ 8 + t.b.toNat / 16 * 2 ^ 4 + 0xF := by
  have hr := t.r.isLt; have hg := t.g.isLt; have hb := t.b.isLt
  simp only [packRgba4444, Nat.lor_assoc, narrow_eq]
  rw [shiftLeft_or_eq _ _ 4 (by omega), shiftLeft_or_eq _ _ 8 (by omega), shiftLeft_or_eq _ _ 12 (by omega)]
  omega

theorem packRgba5551_eq (t : Triple) :
    packRgba5551 t = t.r.toNat / 8 * 2 ^ 11 + t.g.toNat / 8 * 2 ^ 6 + t.b.toNat / 8 * 2 + 1 := by
  have hr := t.r.isLt; have hg := t.g.isLt; have hb := t.b.isLt
  simp only [packRgba5551, Nat.lor_assoc, narrow_eq]
  rw [shiftLeft_or_eq _ _ 1 (by omega), shiftLeft_or_eq _ _ 6 (by omega), shiftLeft_or_eq _ _ 11 (by omega)]
  omega

theorem packRgb888_eq (t : Triple) : packRgb888 t = t.r.toNat * 2 ^ 16 + t.g.toNat * 2 ^ 8 + t.b.toNat := by
  have hr := t.r.isLt; have hg := t.g.isLt; have hb := t.b.isLt
  simp only [packRgb888, Nat.lor_assoc]
  rw [shiftLeft_or_eq _ _ 8 (by omega), shiftLeft_or_eq _ _ 16 (by omega)]
  omega

theorem packBgr888_eq (t : Triple) : packBgr888 t = t.r.toNat * 2 ^ 16 + t.g.toNat * 2 ^ 8 + t.b.toNat :=
  packRgb888_eq t

theorem packRgb565_eq (t : Triple) :
    packRgb565 t = t.r.toNat / 8 * 2 ^ 11 + t.g.toNat / 4 * 2 ^ 5 + t.b.toNat / 8 := by
  have hr := t.r.isLt; have hg := t.g.isLt; have hb := t.b.isLt
  simp only [packRgb565, Nat.lor_assoc, narrow_eq]
  rw [shiftLeft_or_eq _ _ 5 (by omega), shiftLeft_or_eq _ _ 11 (by omega)]
  omega

/-! ## The bytes of a store -/

theorem mem_bytesLE {x : Host.Cell} {a n v : Nat} :
    x ∈ bytesLE a n v ↔ ∃ i < n, x = (a + i, BitVec.ofNat 8 (v / 2 ^ (8 * i))) := by
  simp only [bytesLE, List.mem_map, List.mem_range]
  exact ⟨fun ⟨i, h, e⟩ => ⟨i, h, e.symm⟩, fun ⟨i, h, e⟩ => ⟨i, h, e.symm⟩⟩

theorem bytesLE_distinct (a n v : Nat) : (bytesLE a n v).Pairwise fun y z => y.1 ≠ z.1 := by
  rw [bytesLE, List.pairwise_map]
  exact List.pairwise_lt_range.imp fun h => by simp; omega

/-- The second pixel of a pair stands right after the first. -/
theorem pixAddr_succ (f : Frame) (bpp k x : Nat) : pixAddr f bpp k (x + 1) = pixAddr f bpp k x + bpp := by
  simp only [pixAddr]; ring

/-- Every byte an RGB sink stores, and its address. -/
theorem mem_sinkRgb {x : Host.Cell} {bpp : Nat} {pack : Triple → Nat} {f : Frame} {k c : Nat} {l r : Triple} :
    x ∈ sinkRgb bpp pack f k c l r ↔
      (∃ i < bpp, x = (pixAddr f bpp k c + i, BitVec.ofNat 8 (pack l / 2 ^ (8 * i)))) ∨
      ∃ i < bpp, x = (pixAddr f bpp k c + bpp + i, BitVec.ofNat 8 (pack r / 2 ^ (8 * i))) := by
  simp only [sinkRgb, List.mem_append, mem_bytesLE, pixAddr_succ]

/-- No byte is stored twice by an RGB sink. -/
theorem sinkRgb_distinct (bpp : Nat) (pack : Triple → Nat) (f : Frame) (k c : Nat) (l r : Triple) :
    (sinkRgb bpp pack f k c l r).Pairwise fun y z => y.1 ≠ z.1 := by
  refine List.pairwise_append.mpr ⟨bytesLE_distinct .., bytesLE_distinct .., fun y hy z hz => ?_⟩
  obtain ⟨i, hi, rfl⟩ := mem_bytesLE.mp hy
  obtain ⟨j, hj, rfl⟩ := mem_bytesLE.mp hz
  simp only [pixAddr_succ]; omega

/-! ## Where the sinks store -/

/-- Pixel (k, c) and pixel (k, c + 1) lie in the frame (R165). -/
structure PairInFrame (f : Frame) (k c : Nat) : Prop where
  row : k + 1 ≤ f.H
  col : c + 2 ≤ f.W
  evenCol : c % 2 = 0
  evenW : f.W % 2 = 0
  evenH : f.H % 2 = 0

/-- The halves of the frame and of the pair's place in it, and the row bounds of the planes. -/
theorem PairInFrame.halves {f : Frame} {k c : Nat} (h : PairInFrame f k c) :
    ∃ w g c' q, f.W = 2 * w ∧ f.H = 2 * g ∧ c = 2 * c' ∧ q = k / 2 ∧ k * f.W + f.W ≤ f.W * f.H ∧
      k * w + w ≤ w * f.H ∧ q * w + w ≤ w * g := by
  obtain ⟨hk, hc, hce, hwe, hhe⟩ := h
  have row : ∀ w i n, i + 1 ≤ n → i * w + w ≤ w * n := fun w i n hi => by
    calc i * w + w = w * (i + 1) := by ring
      _ ≤ w * n := Nat.mul_le_mul_left _ hi
  exact ⟨f.W / 2, f.H / 2, c / 2, k / 2, by omega, by omega, by omega, rfl, row _ _ _ hk, row _ _ _ hk,
    row _ _ _ (by omega)⟩

/-- Every byte a sink stores lies in [D, D + size(FORMAT)) (R56, R58). -/
theorem sink_in_footprint {fmt : Format} {f : Frame} {k c : Nat} (h : PairInFrame f k c) (l r : Triple) :
    ∀ x ∈ sink fmt f k c l r, f.D ≤ x.1 ∧ x.1 < f.D + formatSize fmt f := by
  obtain ⟨w, g, c', q, hw, hg, hc', hq, hrow, hrow', hq'⟩ := h.halves
  obtain ⟨hk, hc, -, -, -⟩ := h
  have hw2 : f.W / 2 = w := by omega
  have hg2 : f.H / 2 = g := by omega
  have hc2 : c / 2 = c' := by omega
  have e1 : q * f.W = 2 * (q * w) := by rw [hw]; ring
  have e2 : f.W * g = 2 * (w * g) := by rw [hw]; ring
  have e3 : ∀ b, b * f.W * f.H = b * (f.W * f.H) := fun b => by ring
  have e4 : 2 * w * g = 2 * (w * g) := by ring
  have e5 : 2 * w * f.H = 2 * (w * f.H) := by ring
  intro x hx
  cases fmt <;>
  simp only [sink, sinkAlpha8, sinkArgb8888, sinkArgb4444, sinkArgb1555, sinkRgba8888, sinkRgba4444, sinkRgba5551,
    sinkBgr888, sinkRgb888, sinkRgb565, mem_sinkRgb, sinkYv12, sinkI420, sinkNv12, sinkNv21, sinkI422, sinkUyvy,
    sinkYuy2, sinkI444, storeY, onEvenRow, List.mem_append, List.mem_cons, List.not_mem_nil, or_false, pixAddr,
    formatSize, hw2, hg2, hc2, ← hq, e1, e2, e3, e4, e5] at hx ⊢ <;>
  (try split at hx) <;>
  (try simp only [List.mem_cons, List.not_mem_nil, or_false] at hx) <;>
  first
    | (rcases hx with ⟨i, hi, rfl⟩ | ⟨i, hi, rfl⟩ <;> dsimp only <;> omega)
    | (rcases hx with (rfl | rfl) | rfl | rfl | rfl | rfl <;> dsimp only <;> omega)

/-- No byte of a pair is stored twice. -/
theorem sink_distinct {fmt : Format} {f : Frame} {k c : Nat} (h : PairInFrame f k c) (l r : Triple) :
    (sink fmt f k c l r).Pairwise fun y z => y.1 ≠ z.1 := by
  obtain ⟨w, g, c', q, hw, hg, hc', hq, hrow, hrow', hq'⟩ := h.halves
  obtain ⟨hk, hc, -, -, -⟩ := h
  have hw2 : f.W / 2 = w := by omega
  have hg2 : f.H / 2 = g := by omega
  have hc2 : c / 2 = c' := by omega
  have e1 : q * f.W = 2 * (q * w) := by rw [hw]; ring
  have e3 : ∀ b, b * f.W * f.H = b * (f.W * f.H) := fun b => by ring
  cases fmt <;> (first | exact sinkRgb_distinct .. | skip) <;>
  simp only [sink, sinkYv12, sinkI420, sinkNv12, sinkNv21, sinkI422, sinkUyvy, sinkYuy2, sinkI444, storeY, onEvenRow] <;>
  (try split) <;>
  simp only [List.cons_append, List.nil_append, List.pairwise_cons, List.mem_cons, List.not_mem_nil, or_false,
    false_imp_iff, implies_true, forall_eq_or_imp, forall_eq, List.Pairwise.nil, and_true, ne_eq, hw2, hg2, hc2,
    ← hq, e1, e3, List.append_nil] <;>
  omega

end Sys2Proof.Machine
end

