-- ==== Sys2Proof/Laws/Rows.lean ====
section
/-!
SUPPORT. The laws of the frame driver's steps: what a pair, a group and a border copy can do, and that each keeps the
invariant of its instance.
-/

namespace Sys2Proof.Machine

/-! ## The geometry and the counters -/

/-- What `rowsValid` says, as a proposition. -/
theorem Engine.rowsValid_iff (e : Engine) :
    e.rowsValid = true ↔ e.k.toNat + 2 ≤ e.height.toNat ∧ e.c.toNat + 2 ≤ e.width.toNat ∧ e.c.toNat % 2 = 0 ∧
      e.geom = rowGeometry e.physPattern e.geomRow := by
  simp only [Engine.rowsValid, decide_eq_true_eq]

/-- A pair is reconstructed in the geometry of its own row (R164, R165). -/
theorem Engine.advanced_geom_of_valid {e : Engine} (h : e.rowsValid = true) :
    e.advanced.geom = rowGeometry e.physPattern e.k.toNat := by
  obtain ⟨-, -, -, hg⟩ := e.rowsValid_iff.mp h
  unfold Engine.geomRow at hg
  unfold Engine.advanced
  by_cases hc : e.c = 0
  · rw [if_pos hc] at hg
    by_cases hk : 1 ≤ e.k.toNat
    · obtain ⟨j, hj⟩ : ∃ j, e.k.toNat = j + 1 := ⟨e.k.toNat - 1, by omega⟩
      rw [if_pos ⟨hc, hk⟩]
      simp only [hg, hj, rowGeometry, Nat.add_sub_cancel]
    · have hk0 : e.k.toNat = 0 := by omega
      rw [if_neg (by omega), hg, hk0]
  · rw [if_neg hc] at hg
    rw [if_neg (by tauto), hg]

/-- Where the counters stand after a pair of a valid row: the next pair of the row, the first pair of the next row, or
BORDER (R165). -/
theorem Engine.nextPair_cases {e : Engine} (hk : e.k.toNat + 2 ≤ e.height.toNat) (hc : e.c.toNat + 2 ≤ e.width.toNat) :
    (e.c.toNat + 4 ≤ e.width.toNat ∧ e.nextPair = { e with c := e.c + 2 } ∧ (e.c + 2).toNat = e.c.toNat + 2) ∨
    (e.c.toNat + 2 = e.width.toNat ∨ e.c.toNat + 3 = e.width.toNat) ∧
      ((e.k.toNat + 3 ≤ e.height.toNat ∧ e.nextPair = { e with k := e.k + 1, c := 0 } ∧
          (e.k + 1).toNat = e.k.toNat + 1) ∨
        (e.k.toNat + 2 = e.height.toNat ∧ e.nextPair = { e with phase := .border, plane := 0 })) := by
  have hw := e.width.isLt
  have hh := e.height.isLt
  unfold Engine.nextPair
  by_cases h1 : e.c.toNat + 4 ≤ e.width.toNat
  · refine .inl ⟨h1, if_pos h1, ?_⟩
    rw [BitVec.toNat_add]; simp; omega
  · rw [if_neg h1]
    refine .inr ⟨by omega, ?_⟩
    by_cases h2 : e.k.toNat + 3 ≤ e.height.toNat
    · refine .inl ⟨h2, if_pos h2, ?_⟩
      rw [BitVec.toNat_add]; simp; omega
    · exact .inr ⟨by omega, if_neg h2⟩

/-- The pair `rowsValid` stands before lies in the frame. -/
theorem Engine.pairInFrame {p : Params} {e : Engine} (hj : e.jobValid p = true) (h : e.rowsValid = true) :
    PairInFrame e.frame e.k.toNat e.c.toNat := by
  obtain ⟨hk, hc, hce, -⟩ := e.rowsValid_iff.mp h
  have hgeo : geometryViolated e.frame = false := by
    unfold Engine.jobValid at hj
    split at hj
    · simp only [Bool.and_eq_true, decide_eq_true_eq] at hj
      have := congrArg FaultSet.geometry hj.1.2
      simpa [violations, FaultSet.empty] using this
    · cases hj
  simp only [geometryViolated, decide_eq_false_iff_not, not_or] at hgeo
  exact ⟨by simp [Engine.frame]; omega, by simp [Engine.frame]; omega, hce, by omega, by omega⟩

/-! ## One pair -/

/-- Everything a pair step can do (R165, R212): all its accesses are admitted and the counters move on; or a store is
refused after those before it; or a raw read is refused and nothing is stored. -/
theorem pairWork_cases (p : Params) (fmt : Format) (w : Work) :
    ((pairReads p w.eng.frame w.eng.advanced.geom w.eng.c.toNat).all (canRead p) = true ∧
      (∀ x ∈ pairCells p fmt { w with eng := w.eng.advanced }, canWrite p x.1 = true) ∧
      pairWork p fmt w = { eng := w.eng.advanced.nextPair
                           mem := writeList w.mem (pairCells p fmt { w with eng := w.eng.advanced })
                           draws := w.draws + 11 }) ∨
    ((pairReads p w.eng.frame w.eng.advanced.geom w.eng.c.toNat).all (canRead p) = true ∧
      ∃ before x after, pairCells p fmt { w with eng := w.eng.advanced } = before ++ x :: after ∧
        (∀ y ∈ before, canWrite p y.1 = true) ∧ canWrite p x.1 = false ∧
        pairWork p fmt w = { eng := { w.eng.advanced with phase := .faulted }
                             mem := writeList w.mem before, draws := w.draws + 11 }) ∨
    ((pairReads p w.eng.frame w.eng.advanced.geom w.eng.c.toNat).all (canRead p) = false ∧
      pairWork p fmt w = { w with eng := { w.eng.advanced with phase := .faulted } }) := by
  unfold pairWork
  simp only [Engine.advanced_frame, Engine.advanced_c]
  split
  · rename_i hr
    rcases storeAll_cases p w.mem (pairCells p fmt { w with eng := w.eng.advanced }) with
      ⟨h1, h2⟩ | ⟨l₁, x, l₂, h1, h2, h3, h4⟩
    · exact .inl ⟨hr, h1, by rw [h2]; rfl⟩
    · exact .inr (.inl ⟨hr, l₁, x, l₂, h1, h2, h3, by rw [h4]; rfl⟩)
  · rename_i hr
    exact .inr (.inr ⟨by simpa using hr, rfl⟩)

/-- A step of ROWS or BORDER writes no register but geom, k, c, phase and plane (R165, R170). -/
def Engine.SameJob (d e : Engine) : Prop :=
  ∃ g k c ph pl, d = { e with geom := g, k := k, c := c, phase := ph, plane := pl }

theorem Engine.SameJob.refl (e : Engine) : e.SameJob e := ⟨_, _, _, _, _, rfl⟩

theorem Engine.SameJob.trans {a b c : Engine} (h : a.SameJob b) (h' : b.SameJob c) : a.SameJob c := by
  obtain ⟨g, k, x, ph, pl, rfl⟩ := h
  obtain ⟨g', k', x', ph', pl', rfl⟩ := h'
  exact ⟨g, k, x, ph, pl, rfl⟩

theorem Engine.SameJob.frame {d e : Engine} (h : d.SameJob e) : d.frame = e.frame := by
  obtain ⟨g, k, x, ph, pl, rfl⟩ := h; rfl

theorem Engine.SameJob.jobValid {d e : Engine} (h : d.SameJob e) (p : Params) : d.jobValid p = e.jobValid p := by
  obtain ⟨g, k, x, ph, pl, rfl⟩ := h; rfl

theorem Engine.sameJob_advanced (e : Engine) : e.advanced.SameJob e := by
  unfold Engine.advanced; split <;> exact ⟨_, _, _, _, _, rfl⟩

theorem Engine.sameJob_nextPair (e : Engine) : e.nextPair.SameJob e := by
  unfold Engine.nextPair; split <;> [skip; split] <;> exact ⟨_, _, _, _, _, rfl⟩

theorem pairWork_sameJob (p : Params) (fmt : Format) (w : Work) : (pairWork p fmt w).eng.SameJob w.eng := by
  rcases pairWork_cases p fmt w with ⟨-, -, h⟩ | ⟨-, _, _, _, -, -, -, h⟩ | ⟨-, h⟩ <;> rw [h]
  · exact (Engine.sameJob_nextPair _).trans (Engine.sameJob_advanced _)
  · exact Engine.SameJob.trans ⟨_, _, _, _, _, rfl⟩ (Engine.sameJob_advanced _)
  · exact Engine.SameJob.trans ⟨_, _, _, _, _, rfl⟩ (Engine.sameJob_advanced _)

/-- A pair keeps the canonical form of the data space. -/
theorem pairWork_wf (p : Params) (fmt : Format) (w : Work) (h : w.mem.wf) : (pairWork p fmt w).mem.wf := by
  rcases pairWork_cases p fmt w with ⟨-, h1, h2⟩ | ⟨-, _, _, _, -, h1, -, h2⟩ | ⟨-, h2⟩ <;> rw [h2]
  · exact writeList_wf _ _ (fun x hx => canWrite_lt (h1 x hx)) h
  · exact writeList_wf _ _ (fun x hx => canWrite_lt (h1 x hx)) h
  · exact h

/-- A pair of a valid row leaves the next pair's row valid, or BORDER, or FAULTED (R165). -/
theorem pairWork_phase (p : Params) (fmt : Format) (w : Work) (hp : w.eng.phase = .rows) (h : w.eng.rowsValid = true) :
    ((pairWork p fmt w).eng.phase = .rows ∧ (pairWork p fmt w).eng.rowsValid = true) ∨
    (pairWork p fmt w).eng.phase = .border ∨ (pairWork p fmt w).eng.phase = .faulted := by
  have hg := Engine.advanced_geom_of_valid h
  rcases pairWork_cases p fmt w with ⟨-, -, h'⟩ | ⟨-, _, _, _, -, -, -, h'⟩ | ⟨-, h'⟩ <;> rw [h']
  · obtain ⟨hk, hc, hce, -⟩ := w.eng.rowsValid_iff.mp h
    have hv : w.eng.advanced.nextPair.phase = .rows → w.eng.advanced.nextPair.rowsValid = true := by
      intro hph
      rw [Engine.rowsValid_iff]
      unfold Engine.nextPair Engine.geomRow at *
      have hw := w.eng.width.isLt
      have hh := w.eng.height.isLt
      split
      · rename_i h1
        simp only [Engine.advanced_c, Engine.advanced_width] at h1
        have e1 : (w.eng.c + 2).toNat = w.eng.c.toNat + 2 := by rw [BitVec.toNat_add]; simp; omega
        have e2 : w.eng.c + 2 ≠ 0 := fun h0 => by rw [h0] at e1; simp at e1
        simp only [Engine.advanced_c, Engine.advanced_k, Engine.advanced_width, Engine.advanced_height,
          Engine.advanced_physPattern, e1, if_neg e2, hg, and_true]
        omega
      · split
        · rename_i h1 h2
          simp only [Engine.advanced_k, Engine.advanced_height] at h2
          have e1 : (w.eng.k + 1).toNat = w.eng.k.toNat + 1 := by rw [BitVec.toNat_add]; simp; omega
          simp only [Engine.advanced_k, Engine.advanced_width, Engine.advanced_height, Engine.advanced_physPattern, e1,
            if_pos, Nat.add_sub_cancel, hg, and_true]
          simp; omega
        · rename_i h1 h2
          rw [if_neg h1, if_neg h2] at hph
          cases hph
    have hph : w.eng.advanced.nextPair.phase = .rows ∨ w.eng.advanced.nextPair.phase = .border := by
      unfold Engine.nextPair; split <;> [skip; split] <;> simp [hp]
    rcases hph with hph | hph
    · exact .inl ⟨hph, hv hph⟩
    · exact .inr (.inl hph)
  · exact .inr (.inr rfl)
  · exact .inr (.inr rfl)

/-- Where a pair that met no refused access leaves the counters (R165). -/
theorem pairWork_counters (p : Params) (fmt : Format) (w : Work) (h : w.eng.rowsValid = true)
    (hf : (pairWork p fmt w).eng.phase ≠ .faulted) (hp : w.eng.phase = .rows) :
    let v := (pairWork p fmt w).eng
    (w.eng.c.toNat + 4 ≤ w.eng.width.toNat ∧ v.phase = .rows ∧ v.k = w.eng.k ∧ v.c.toNat = w.eng.c.toNat + 2) ∨
    ((w.eng.c.toNat + 2 = w.eng.width.toNat ∨ w.eng.c.toNat + 3 = w.eng.width.toNat) ∧
      ((w.eng.k.toNat + 3 ≤ w.eng.height.toNat ∧ v.phase = .rows ∧ v.k.toNat = w.eng.k.toNat + 1 ∧ v.c = 0) ∨
       (w.eng.k.toNat + 2 = w.eng.height.toNat ∧ v.phase = .border ∧ v.plane = 0))) := by
  obtain ⟨hk, hc, -, -⟩ := w.eng.rowsValid_iff.mp h
  rcases pairWork_cases p fmt w with ⟨-, -, h'⟩ | ⟨-, _, _, _, -, -, -, h'⟩ | ⟨-, h'⟩
  · rw [h']
    rcases Engine.nextPair_cases (e := w.eng.advanced) (by simpa using hk) (by simpa using hc) with
      ⟨h1, h2, h3⟩ | ⟨h1, ⟨h2, h3, h4⟩ | ⟨h2, h3⟩⟩
    · exact .inl ⟨by simpa using h1, by simp [h2, hp], by simp [h2], by simpa [h2] using h3⟩
    · exact .inr ⟨by simpa using h1, .inl ⟨by simpa using h2, by simp [h3, hp], by simpa [h3] using h4, by simp [h3]⟩⟩
    · exact .inr ⟨by simpa using h1, .inr ⟨by simpa using h2, by simp [h3], by simp [h3]⟩⟩
  · rw [h'] at hf; exact absurd rfl hf
  · rw [h'] at hf; exact absurd rfl hf

/-- A pair keeps the invariant of its instance. -/
theorem pairWork_inv (p : Params) (fmt : Format) (w : Work) (hp : w.eng.phase = .rows) (h : w.eng.Inv p) :
    (pairWork p fmt w).eng.Inv p := by
  obtain ⟨hb, hd, hj, hr⟩ := h
  have hs := pairWork_sameJob p fmt w
  have hph := pairWork_phase p fmt w hp (hr hp)
  have hbusy : (pairWork p fmt w).eng.busy = true := by
    obtain ⟨_, _, _, _, _, e⟩ := hs; rw [e]; exact hb.mpr (by rw [hp]; decide)
  have hdone : (pairWork p fmt w).eng.done = false := by
    obtain ⟨_, _, _, _, _, e⟩ := hs; rw [e]; exact hd (hb.mpr (by rw [hp]; decide))
  refine ⟨⟨fun _ => ?_, fun _ => hbusy⟩, fun _ => hdone, fun _ => (hs.jobValid p).trans (hj (.inl hp)), fun hq => ?_⟩
  · rcases hph with ⟨h, -⟩ | h | h <;> rw [h] <;> decide
  · rcases hph with ⟨-, h⟩ | h | h
    · exact h
    · rw [h] at hq; cases hq
    · rw [h] at hq; cases hq

/-! ## One group -/

/-- What every pair of phase ROWS keeps, a group keeps (R172, R173). -/
theorem groupWork_induct {p : Params} {fmt : Format} {P : Work → Prop}
    (hstep : ∀ w : Work, P w → w.eng.phase = .rows → P (pairWork p fmt w)) :
    ∀ (g : Nat) (w : Work), P w → w.eng.phase = .rows → P (groupWork p fmt g w)
  | 0, _, h, _ => h
  | g + 1, w, h, hp => by
    unfold groupWork
    dsimp only
    split
    · rename_i hc
      exact groupWork_induct hstep g _ (hstep w h hp) hc.1
    · exact hstep w h hp

/-- A group writes no other register than a pair does. -/
theorem groupWork_sameJob (p : Params) (fmt : Format) (g : Nat) (w : Work) (hp : w.eng.phase = .rows) :
    (groupWork p fmt g w).eng.SameJob w.eng :=
  groupWork_induct (P := fun v => v.eng.SameJob w.eng) (fun v h _ => (pairWork_sameJob p fmt v).trans h) g w
    (.refl _) hp

theorem groupWork_wf (p : Params) (fmt : Format) (g : Nat) (w : Work) (hp : w.eng.phase = .rows) (h : w.mem.wf) :
    (groupWork p fmt g w).mem.wf :=
  groupWork_induct (P := fun v => v.mem.wf) (fun v h _ => pairWork_wf p fmt v h) g w h hp

theorem groupWork_inv (p : Params) (fmt : Format) (g : Nat) (w : Work) (hp : w.eng.phase = .rows) (h : w.eng.Inv p) :
    (groupWork p fmt g w).eng.Inv p :=
  groupWork_induct (P := fun v => v.eng.Inv p) (fun v h hv => pairWork_inv p fmt v hv h) g w h hp

/-! ## BORDER -/

/-- Everything a row copy can do (R170, R212): it moves on to the next plane, or it met a refused access. -/
theorem copyWork_cases (p : Params) (r : RowCopy) (w : Work) :
    ((copyRow p r w.mem).2 = true ∧
      copyWork p r w = { w with eng := { w.eng with plane := w.eng.plane + 1 }, mem := (copyRow p r w.mem).1 }) ∨
    ((copyRow p r w.mem).2 = false ∧
      copyWork p r w = { w with eng := { w.eng with phase := .faulted }, mem := (copyRow p r w.mem).1 }) := by
  unfold copyWork
  split
  · rename_i m h; exact .inl ⟨by rw [h], by rw [h]⟩
  · rename_i m h; exact .inr ⟨by rw [h], by rw [h]⟩

theorem copyWork_sameJob (p : Params) (r : RowCopy) (w : Work) : (copyWork p r w).eng.SameJob w.eng := by
  rcases copyWork_cases p r w with ⟨-, h⟩ | ⟨-, h⟩ <;> rw [h] <;> exact ⟨_, _, _, _, _, rfl⟩

theorem copyWork_wf (p : Params) (r : RowCopy) (w : Work) (h : w.mem.wf) : (copyWork p r w).mem.wf := by
  rcases copyWork_cases p r w with ⟨-, e⟩ | ⟨-, e⟩ <;> rw [e] <;> exact copyBytes_wf _ _ _ _ _ _ h

end Sys2Proof.Machine
end

