-- ==== Sys2Proof/Machine/HostSyntax.lean ====
section
/-!
DEFINITION. The host assembler syntax of 30_encoding.md R92: the operations a host program is written in, and the
moves each expands to. `WAITDONE` is control flow of the host's own instruction set; what the engine sees of it is
`rd status`, repeated.
-/

namespace Sys2Proof.Machine

/-- The nine named registers (R23). -/
inductive Reg where
  | ctrl | status | result | cfg | rawAddr | rawStride | width | height | dstAddr
  deriving DecidableEq, Repr

/-- The offset of a register in the window (R23). -/
def Reg.offset : Reg → BitVec 8
  | .ctrl => 0x00
  | .status => 0x04
  | .result => 0x08
  | .cfg => 0x0C
  | .rawAddr => 0x10
  | .rawStride => 0x14
  | .width => 0x18
  | .height => 0x1C
  | .dstAddr => 0x20

/-- One line of a host program (R92). -/
inductive HostOp where
  | wr (r : Reg) (v : Word)
  | rd (r : Reg)
  | mem (addr : Word) (bytes : List Byte)
  | setcfg (p : Pattern) (code : BitVec 5)
  | start
  | startIrq
  | clrDone
  deriving DecidableEq, Repr

/-- An aligned 32-bit write of the instance whose window is at `base`. -/
def busWrite (base : Word) (r : Reg) (v : Word) : Move :=
  .host (.transact { write := true, addr := base + r.offset.setWidth 32, size := 4, wdata := v })

/-- An aligned 32-bit read of the instance whose window is at `base`. -/
def busRead (base : Word) (r : Reg) : Move :=
  .host (.transact { write := false, addr := base + r.offset.setWidth 32, size := 4, wdata := 0 })

/-- The host's stores of consecutive bytes (R92, `MEM`). The address is a 32-bit word, so a line that runs past
0xFFFFFFFF goes on at address 0: R92 does not say where its bytes go (DESIGN CHOICE, assumption 16). -/
def storeBytes (addr : Word) : List Byte → List Move
  | [] => []
  | v :: rest => .host (.writeByte addr v) :: storeBytes (addr + 1) rest

/-- The moves of one line (R92). -/
def HostOp.moves (base : Word) : HostOp → List Move
  | .wr r v => [busWrite base r v]
  | .rd r => [busRead base r]
  | .mem addr bytes => storeBytes addr bytes
  | .setcfg p code => [busWrite base .cfg (packCfg code p)]
  | .start => [busWrite base .ctrl 0x00000001]
  | .startIrq => [busWrite base .ctrl 0x00000003]
  | .clrDone => [busWrite base .status 0x00000002]

end Sys2Proof.Machine
end

