-- ==== Sys2Proof/Tests/Slice0.lean ====
section
/-!
SUPPORT. The model's own tests. The expected words, bytes and registers are the spec's: 30_encoding.md R93 and the
tables of R83, R84 and R89, 95_test_vectors.md, and the examples of the rules named at each test. The second half
holds, for every obligation with hypotheses, a concrete state that meets them.
-/

namespace Sys2Proof.Machine

/-! ## Helpers -/

/-- A BUSY instance about to validate: W = H = P = 4, raw frame at 0x1000, destination at 0x2000, pattern RGGB. -/
def job44 (fmt : Format) : Engine :=
  { Engine.reset 0 with
    busy := true, phase := .validate, format := fmt.code, rawAddr := 0x1000, rawStride := 4, width := 4, height := 4
    dstAddr := 0x2000 }

/-- The same instance on entry to ROWS. -/
def rows44 (fmt : Format) : Engine := (job44 fmt).enterRows fmt .rggb

/-- The same instance in BORDER, before the copy numbered `i`. -/
def border44 (fmt : Format) (i : Nat) : Engine := { rows44 fmt with phase := .border, k := 2, c := 2, plane := i }

/-- The frame F1 of 95_test_vectors.md at 0x1000: raw[i] = i. -/
def frameF1 : Memory := (List.range 15).map fun i => (0x1001 + i, BitVec.ofNat 8 (i + 1))

/-- A machine with one instance. -/
def oneEngine (e : Engine) (m : Memory) : State := { State.reset with insts := [e], mem := m }

/-- The answer's state, if it has one. -/
def answered : Answer → Option State
  | .next t => some t
  | .fault _ => none
  | .refused _ => none

/-- `n` bytes from `a` in the state an operation answers. -/
def bytesAfter (r : Answer) (a n : Nat) : Option (List Byte) :=
  (answered r).map fun t => (List.range n).map fun i => t.mem.read (a + i)

/-- What the register read returned. -/
def readBack (r : Answer) : Option Word := (answered r).map State.rdata

/-- A field of instance 0 in the state an operation answers. -/
def field {α : Type} (f : Engine → α) (r : Answer) : Option α :=
  match answered r with
  | some t => (t.insts[0]?).map f
  | none => none

/-- One move of the host. -/
def hostWrites (s : State) (addr : Word) (v : Word) : Answer :=
  step (s.setAgenda [.host (.transact { write := true, addr := addr, size := 4, wdata := v })])

/-! ## WellFormed: every check refuses an ill-formed term -/

theorem test_wf_unsupported_code : (Instr.dmsUnsupported 0 0x11 .rggb).wf = false ∧
    (Instr.dmsUnsupported 0 0x12 .rggb).wf = true := by decide

theorem test_wf_reserved_read : (Instr.rdRsvd 0 0x20).wf = false ∧ (Instr.rdRsvd 0 0x26).wf = false ∧
    (Instr.rdRsvd 0 0x24).wf = true := by decide

theorem test_wf_reserved_write : (Instr.wrRsvd 0 0x00 1).wf = false ∧ (Instr.wrRsvd 0 0xFD 1).wf = false ∧
    (Instr.wrRsvd 0 0xFC 1).wf = true := by decide

/-! ## Decoding: words written out from the tables of R83, R84 and R89 -/

theorem test_decode_rgb_jobs :
    decode (.job 0 0b00000_000000_00) = .ok (.dmsAlpha8 0 .rggb) ∧
    decode (.job 0 0b00001_000000_01) = .ok (.dmsArgb8888 0 .bggr) ∧
    decode (.job 0 0b00010_000000_10) = .ok (.dmsArgb4444 0 .gbrg) ∧
    decode (.job 0 0b00011_000000_11) = .ok (.dmsArgb1555 0 .grbg) ∧
    decode (.job 0 0b00100_000000_00) = .ok (.dmsRgba8888 0 .rggb) ∧
    decode (.job 0 0b00101_000000_01) = .ok (.dmsRgba4444 0 .bggr) ∧
    decode (.job 0 0b00110_000000_10) = .ok (.dmsRgba5551 0 .gbrg) ∧
    decode (.job 0 0b00111_000000_11) = .ok (.dmsBgr888 0 .grbg) ∧
    decode (.job 0 0b01000_000000_00) = .ok (.dmsRgb888 0 .rggb) ∧
    decode (.job 0 0b01001_000000_01) = .ok (.dmsRgb565 0 .bggr) := by decide

theorem test_decode_yuv_jobs :
    decode (.job 3 0b01010_000000_00) = .ok (.dmsYv12 3 .rggb) ∧
    decode (.job 3 0b01011_000000_11) = .ok (.dmsI420 3 .grbg) ∧
    decode (.job 3 0b01100_000000_10) = .ok (.dmsNv12 3 .gbrg) ∧
    decode (.job 3 0b01101_000000_01) = .ok (.dmsNv21 3 .bggr) ∧
    decode (.job 3 0b01110_000000_00) = .ok (.dmsI422 3 .rggb) ∧
    decode (.job 3 0b01111_000000_01) = .ok (.dmsUyvy 3 .bggr) ∧
    decode (.job 3 0b10000_000000_01) = .ok (.dmsYuy2 3 .bggr) ∧
    decode (.job 3 0b10001_000000_10) = .ok (.dmsI444 3 .gbrg) := by decide

theorem test_decode_unsupported_jobs :
    decode (.job 0 0b10010_000000_00) = .ok (.dmsUnsupported 0 0x12 .rggb) ∧
    decode (.job 0 0b11111_000000_11) = .ok (.dmsUnsupported 0 0x1F .grbg) := by decide

theorem test_decode_reads :
    decode (.mmio 0 0b0_00000000 4 0) = .ok (.rdCtrl 0) ∧ decode (.mmio 0 0b0_00000100 4 0) = .ok (.rdStatus 0) ∧
    decode (.mmio 0 0b0_00001000 4 0) = .ok (.rdResult 0) ∧ decode (.mmio 0 0b0_00001100 4 0) = .ok (.rdCfg 0) ∧
    decode (.mmio 0 0b0_00010000 4 0) = .ok (.rdRawAddr 0) ∧
    decode (.mmio 0 0b0_00010100 4 0) = .ok (.rdRawStride 0) ∧
    decode (.mmio 0 0b0_00011000 4 0) = .ok (.rdWidth 0) ∧ decode (.mmio 0 0b0_00011100 4 0) = .ok (.rdHeight 0) ∧
    decode (.mmio 0 0b0_00100000 4 0) = .ok (.rdDstAddr 0) ∧
    decode (.mmio 0 0b0_00100100 4 0) = .ok (.rdRsvd 0 0x24) ∧
    decode (.mmio 0 0b0_11111100 4 0) = .ok (.rdRsvd 0 0xFC) := by decide

theorem test_decode_writes :
    decode (.mmio 1 0b1_00000000 4 7) = .ok (.wrCtrl 1 7) ∧ decode (.mmio 1 0b1_00000100 4 7) = .ok (.wrStatus 1 7) ∧
    decode (.mmio 1 0b1_00001000 4 7) = .ok (.wrResult 1 7) ∧ decode (.mmio 1 0b1_00001100 4 7) = .ok (.wrCfg 1 7) ∧
    decode (.mmio 1 0b1_00010000 4 7) = .ok (.wrRawAddr 1 7) ∧
    decode (.mmio 1 0b1_00010100 4 7) = .ok (.wrRawStride 1 7) ∧
    decode (.mmio 1 0b1_00011000 4 7) = .ok (.wrWidth 1 7) ∧ decode (.mmio 1 0b1_00011100 4 7) = .ok (.wrHeight 1 7) ∧
    decode (.mmio 1 0b1_00100000 4 7) = .ok (.wrDstAddr 1 7) ∧
    decode (.mmio 1 0b1_00100100 4 7) = .ok (.wrRsvd 1 0x24 7) ∧
    decode (.mmio 1 0b1_11111100 4 7) = .ok (.wrRsvd 1 0xFC 7) := by decide

theorem test_decode_refuses_by_name :
    decode (.mmio 0 0b0_00000010 4 0) = .error .misaligned ∧ decode (.mmio 0 0b1_00000001 4 0) = .error .misaligned ∧
    decode (.mmio 0 0b0_00000100 2 0) = .error .badSize := by decide

/-- Assumption 4: the table's numbering. -/
theorem test_decode_table_words :
    decodeTableWord 32 0x0000 = some (.dmsAlpha8 0 .rggb) ∧ decodeTableWord 16 0x1100 = some (.dmsI444 0 .rggb) ∧
    decodeTableWord 16 0x0004 = some (.rdStatus 0) ∧ decodeTableWord 16 0x0118 = some (.wrWidth 0 0) ∧
    decodeTableWord 48 0x000000050118 = some (.wrWidth 0 5) ∧ decodeTableWord 16 0x0002 = none := by decide

theorem test_fetch_word_runs :
    answered (step (State.reset.withFetchWord 48 0x000000050118)) = answered (exec (.wrWidth 0 5) State.reset) ∧
    field Engine.code (step (State.reset.withFetchWord 16 0x1200)) = some .nullPointer := by decide

/-! ## Tile model and kernel (95_test_vectors.md 2.1, 2.2) -/

theorem test_derive_gbrg : deriveTile .gbrg =
    { redRow := 1, blueRow := 0, redCol := 0, blueCol := 1, redIdx := 1, blueIdx := 0 } := by decide

theorem test_advance_rggb :
    ((List.range 5).map fun k => ((rowGeometry .rggb k).redIdx.toNat, (rowGeometry .rggb k).blueIdx.toNat)) =
      [(0, 1), (2, 1), (2, 3), (4, 3), (4, 5)] := by decide

theorem test_advance_gbrg :
    ((List.range 5).map fun k => ((rowGeometry .gbrg k).redIdx.toNat, (rowGeometry .gbrg k).blueIdx.toNat)) =
      [(1, 0), (1, 2), (3, 2), (3, 4), (5, 4)] := by decide

theorem test_round_average : roundAverage 0 1 = 1 ∧ roundAverage 1 4 = 3 ∧ roundAverage 0 255 = 128 ∧
    roundAverage 254 255 = 255 ∧ roundAverage 200 10 = 105 := by decide

/-- Row 1 of F1 under RGGB: Cell(1, 0) = (8, 7, 5) and Cell(1, 2) = (10, 9, 7). -/
theorem test_cell_row1 :
    cell (fun _ a => frameF1.read a) (rows44 .rgb888).frame (rowGeometry .rggb 1) 0 0 = ⟨8, 7, 5⟩ ∧
    cell (fun _ a => frameF1.read a) (rows44 .rgb888).frame (rowGeometry .rggb 1) 0 2 = ⟨10, 9, 7⟩ := by decide

/-- EdgeCell(0) = (4, 7, 9) under REFERENCE. -/
theorem test_edge_reference :
    edgeCell { launchParams with edgeRight := .reference } (fun _ a => frameF1.read a) 0 (rows44 .rgb888).frame
      (rowGeometry .rggb 0) = ⟨4, 7, 9⟩ := by decide

/-! ## Sinks (95_test_vectors.md 2.3, 2.4): left is (0x12, 0x34, 0x56) -/

def exampleLeft : Triple := ⟨0x12, 0x34, 0x56⟩
def exampleRight : Triple := ⟨0x80, 0x40, 0x20⟩
def exampleRed : Triple := ⟨0xFF, 0x00, 0x00⟩
def frame44 : Frame := { A := 0x1000, P := 4, W := 4, H := 4, D := 0x2000 }

theorem test_sink_alpha8 : sinkAlpha8 frame44 0 0 exampleLeft exampleRight = [(0x2000, 0xFF), (0x2001, 0xFF)] := by decide
theorem test_sink_argb8888 : (sinkArgb8888 frame44 0 0 exampleLeft exampleRight).map Prod.snd =
    [0x56, 0x34, 0x12, 0xFF, 0x20, 0x40, 0x80, 0xFF] := by decide
theorem test_sink_argb4444 : (sinkArgb4444 frame44 0 0 exampleLeft exampleRight).map Prod.snd =
    [0x35, 0xF1, 0x42, 0xF8] := by decide
theorem test_sink_argb1555 : (sinkArgb1555 frame44 0 0 exampleLeft exampleRight).map Prod.snd =
    [0xCA, 0x88, 0x04, 0xC1] := by decide
theorem test_sink_rgba8888 : (sinkRgba8888 frame44 0 0 exampleLeft exampleRight).map Prod.snd =
    [0xFF, 0x56, 0x34, 0x12, 0xFF, 0x20, 0x40, 0x80] := by decide
theorem test_sink_rgba4444 : (sinkRgba4444 frame44 0 0 exampleLeft exampleRight).map Prod.snd =
    [0x5F, 0x13, 0x2F, 0x84] := by decide
theorem test_sink_rgba5551 : (sinkRgba5551 frame44 0 0 exampleLeft exampleRight).map Prod.snd =
    [0x95, 0x11, 0x09, 0x82] := by decide
theorem test_sink_rgb888 : sinkRgb888 frame44 1 2 exampleLeft exampleRight =
    [(0x2012, 0x56), (0x2013, 0x34), (0x2014, 0x12), (0x2015, 0x20), (0x2016, 0x40), (0x2017, 0x80)] := by decide
theorem test_sink_rgb565 : (sinkRgb565 frame44 0 0 exampleLeft exampleRight).map Prod.snd =
    [0xAA, 0x11, 0x04, 0x82] := by decide

/-- R140: the corner vectors of the conversion, the floor shift among them. -/
theorem test_to_yuv :
    (luma exampleLeft, chromaU exampleLeft, chromaV exampleLeft) = (0x37, 0x94, 0x6F) ∧
    (luma ⟨10, 20, 0⟩, chromaU ⟨10, 20, 0⟩, chromaV ⟨10, 20, 0⟩) = (29, 121, 125) ∧
    (luma ⟨255, 255, 0⟩, chromaU ⟨255, 255, 0⟩, chromaV ⟨255, 255, 0⟩) = (210, 16, 146) ∧
    (luma ⟨0, 255, 255⟩, chromaU ⟨0, 255, 255⟩, chromaV ⟨0, 255, 255⟩) = (169, 166, 16) := by decide

theorem test_sink_yv12 : sinkYv12 frame44 0 0 exampleLeft exampleRed =
    [(0x2000, 0x37), (0x2001, 0x52), (0x2010, 0x6F), (0x2014, 0x94)] := by decide
theorem test_sink_yv12_odd_row : sinkYv12 frame44 1 0 exampleLeft exampleRed = [(0x2004, 0x37), (0x2005, 0x52)] := by decide
theorem test_sink_i420 : sinkI420 frame44 0 0 exampleLeft exampleRed =
    [(0x2000, 0x37), (0x2001, 0x52), (0x2010, 0x94), (0x2014, 0x6F)] := by decide
theorem test_sink_nv12 : sinkNv12 frame44 0 0 exampleLeft exampleRed =
    [(0x2000, 0x37), (0x2001, 0x52), (0x2010, 0x94), (0x2011, 0x6F)] := by decide
theorem test_sink_nv21 : sinkNv21 frame44 0 0 exampleLeft exampleRed =
    [(0x2000, 0x37), (0x2001, 0x52), (0x2010, 0x6F), (0x2011, 0x94)] := by decide
theorem test_sink_i422 : sinkI422 frame44 0 0 exampleLeft exampleRed =
    [(0x2000, 0x37), (0x2001, 0x52), (0x2010, 0x94), (0x2018, 0x6F)] := by decide
theorem test_sink_i422_odd_row : sinkI422 frame44 1 0 exampleLeft exampleRed =
    [(0x2004, 0x37), (0x2005, 0x52), (0x2012, 0x94), (0x201A, 0x6F)] := by decide
theorem test_sink_uyvy : sinkUyvy frame44 0 0 exampleLeft exampleRed =
    [(0x2000, 0x94), (0x2001, 0x37), (0x2002, 0x6F), (0x2003, 0x52)] := by decide
theorem test_sink_yuy2 : sinkYuy2 frame44 0 0 exampleLeft exampleRed =
    [(0x2000, 0x37), (0x2001, 0x94), (0x2002, 0x52), (0x2003, 0x6F)] := by decide
theorem test_sink_i444 : sinkI444 frame44 0 0 exampleLeft exampleRed =
    [(0x2000, 0x37), (0x2001, 0x52), (0x2010, 0x94), (0x2011, 0x5A), (0x2020, 0x6F), (0x2021, 0xF0)] := by decide

/-! ## Engine steps -/

/-- Program P1: the first pair of F1, pixels (0, 3, 5) and (2, 5, 7). -/
theorem test_rgb888_first_pair :
    bytesAfter (exec (.dmsRgb888 0 .rggb) (oneEngine (rows44 .rgb888) frameF1)) 0x2000 7 =
      some [5, 3, 0, 7, 5, 2, 0] := by decide

/-- Under BGR888 the geometry is BGGR's: red and blue are exchanged. -/
theorem test_bgr888_first_pair :
    bytesAfter (exec (.dmsBgr888 0 .rggb) (oneEngine (rows44 .bgr888) frameF1)) 0x2000 7 =
      some [0, 3, 5, 2, 5, 7, 0] := by decide

theorem test_pair_counters :
    field (fun e => (e.k, e.c, e.phase)) (exec (.dmsRgb888 0 .rggb) (oneEngine { rows44 .rgb888 with c := 2 } frameF1)) =
      some (1, 0, .rows) ∧
    field (fun e => (e.phase, e.plane))
      (exec (.dmsRgb888 0 .rggb) (oneEngine { rows44 .rgb888 with k := 2, c := 2 } frameF1)) = some (.border, 0) := by
  decide

theorem test_validate_enters_rows :
    answered (exec (.dmsI420 0 .rggb) (oneEngine (job44 .i420) frameF1)) = some (oneEngine (rows44 .i420) frameF1) := by
  decide

theorem test_validate_null :
    field (fun e => (e.code, e.busy, e.done)) (exec (.dmsI420 0 .rggb) (oneEngine { job44 .i420 with dstAddr := 0 } [])) =
      some (.nullPointer, false, true) := by decide

/-- Both errors at once: NULL_POINTER comes first (R161). -/
theorem test_unsupported_null_first :
    field Engine.code (exec (.dmsUnsupported 0 0x12 .rggb)
      (oneEngine { job44 .i420 with format := 0x12, rawAddr := 0 } [])) = some .nullPointer := by decide

theorem test_unsupported :
    field (fun e => (e.code, e.busy, e.done, e.format)) (exec (.dmsUnsupported 0 0x1F .rggb)
      (oneEngine { job44 .i420 with format := 0x1F } [])) = some (.unsupportedFormat, false, true, 0x1F) := by decide

theorem test_validate_faults :
    (answered (exec (.dmsI420 0 .rggb) (oneEngine { job44 .i420 with width := 5 } []))).map State.faults =
      some { FaultSet.empty with geometry := true, stride := true } ∧
    (answered (exec (.dmsI420 0 .rggb) (oneEngine { job44 .i420 with rawAddr := 0x1FF1 } []))).map State.faults =
      some { FaultSet.empty with overlap := true } ∧
    (answered (exec (.dmsI420 0 .rggb) (oneEngine { job44 .i420 with dstAddr := 0xFFFFFFE9 } []))).map State.faults =
      some { FaultSet.empty with wrap := true } := by decide

theorem test_border_then_success :
    bytesAfter (exec (.dmsAlpha8 0 .rggb) (oneEngine (border44 .alpha8 0) [(0x2008, 1), (0x200B, 4)])) 0x200C 4 =
      some [1, 0, 0, 4] ∧
    field (fun e => (e.code, e.busy, e.done, e.phase)) (exec (.dmsAlpha8 0 .rggb) (oneEngine (border44 .alpha8 1) [])) =
      some (.success, false, true, .idle) := by decide

theorem test_f_mem :
    (answered (exec (.dmsAlpha8 0 .rggb)
      { oneEngine (rows44 .alpha8) [] with params := { launchParams with noWrite := [⟨0x2001, 0x2001⟩] } })).map
        (fun t => (t.faults.mem, t.mem)) = some (true, [(0x2000, 0xFF)]) := by decide

/-! ## Register operations (95_test_vectors.md 2.6) -/

theorem test_wr_cfg : field Engine.cfgWord (hostWrites State.reset 0x0C 0xFFFFFFFF) = some 0x00001F03 := by decide
theorem test_rd_cfg : readBack (exec (.rdCfg 0) (oneEngine { Engine.reset 0 with format := 0x0B, pattern := .grbg } [])) =
    some 0x00000B03 := by decide
theorem test_wr_ctrl_irq_only : field (fun e => (e.ctrlWord, e.busy)) (hostWrites State.reset 0x00 2) =
    some (0x00000002, false) := by decide
theorem test_wr_ctrl_start : field (fun e => (e.statusWord, e.phase))
    (exec (.wrCtrl 0 1) (oneEngine { Engine.reset 0 with done := true } [])) = some (0x00000001, .validate) := by decide
theorem test_rd_ctrl : readBack (exec (.rdCtrl 0) (oneEngine { job44 .i420 with irqEn := true } [])) = some 2 := by decide
theorem test_rd_status : readBack (exec (.rdStatus 0) (oneEngine (job44 .i420) [])) = some 1 ∧
    readBack (exec (.rdStatus 0) (oneEngine { Engine.reset 0 with done := true } [])) = some 2 := by decide
theorem test_wr_status : field Engine.statusWord
    (exec (.wrStatus 0 2) (oneEngine { Engine.reset 0 with done := true } [])) = some 0 ∧
    field Engine.statusWord (exec (.wrStatus 0 0xFFFFFFFD) (oneEngine { Engine.reset 0 with done := true } [])) =
      some 2 := by decide
theorem test_rd_result : readBack (exec (.rdResult 0) (oneEngine { Engine.reset 0 with code := .nullPointer } [])) =
    some 1 := by decide
theorem test_wr_result : field Engine.code
    (exec (.wrResult 0 0) (oneEngine { Engine.reset 0 with code := .unsupportedFormat } [])) =
      some .unsupportedFormat := by decide
theorem test_rd_raw_addr : readBack (exec (.rdRawAddr 0) (oneEngine (job44 .i420) [])) = some 0x1000 := by decide
theorem test_wr_raw_addr : field Engine.rawAddr (hostWrites State.reset 0x10 0x1000) = some 0x1000 := by decide
theorem test_rd_raw_stride : readBack (exec (.rdRawStride 0) (oneEngine { job44 .i420 with rawStride := 6 } [])) =
    some 6 := by decide
theorem test_wr_raw_stride : field Engine.rawStride (hostWrites State.reset 0x14 6) = some 6 := by decide
theorem test_rd_width : readBack (exec (.rdWidth 0) (oneEngine { job44 .i420 with width := 8 } [])) = some 8 := by decide
theorem test_wr_width_busy : field Engine.width (exec (.wrWidth 0 8) (oneEngine (job44 .i420) [])) = some 4 ∧
    field Engine.width (hostWrites State.reset 0x18 8) = some 8 := by decide
theorem test_rd_height : readBack (exec (.rdHeight 0) (oneEngine { job44 .i420 with height := 8 } [])) = some 8 := by decide
theorem test_wr_height : field Engine.height (hostWrites State.reset 0x1C 4) = some 4 := by decide
theorem test_rd_dst_addr : readBack (exec (.rdDstAddr 0) (oneEngine (job44 .i420) [])) = some 0x2000 := by decide
theorem test_wr_dst_addr : field Engine.dstAddr (hostWrites State.reset 0x20 0x2000) = some 0x2000 := by decide
theorem test_rd_rsvd : readBack (exec (.rdRsvd 0 0xFC) { State.reset with rdata := 5 }) = some 0 := by decide
theorem test_wr_rsvd : answered (exec (.wrRsvd 0 0x24 0xFFFFFFFF) State.reset) = some State.reset := by decide

theorem test_refused_access :
    (answered (hostWrites State.reset 0x02 1)).map (fun t => (t.refused, t.insts)) = some (true, State.reset.insts) := by
  decide

theorem test_no_such_instance : exec (.rdCtrl 1) State.reset = .fault .noInstance ∧
    hostWrites State.reset 0x100 1 = .fault .noWindow := ⟨rfl, rfl⟩

/-- R92: `SETCFG GRBG, I420` and `START.IRQ` as moves. -/
theorem test_host_syntax :
    (HostOp.setcfg .grbg 0x0B).moves 0x40 =
      [.host (.transact { write := true, addr := 0x4C, size := 4, wdata := 0x00000B03 })] ∧
    HostOp.startIrq.moves 0x40 =
      [.host (.transact { write := true, addr := 0x40, size := 4, wdata := 0x00000003 })] := by decide

/-! ## Witnesses: states that meet the hypotheses of the obligations -/

theorem reset_inv : State.reset.Inv := by decide

/-- A second instance, with its window at 0x100. -/
def twoEngines (d e : Engine) : State := { State.reset with insts := [d, { e with base := 0x100 }] }

/-- A host move alone on the agenda. -/
def withMove (s : State) (a : HostAction) : State := s.setAgenda [.host a]

/-- A 32-bit read of the word at `addr`. -/
def readOf (addr : Word) : Transaction := { write := false, addr := addr, size := 4, wdata := 0 }

-- Encoding
theorem witness_DecodeEncodeRoundTrip : (Instr.wrRsvd 7 0xFC 0xFFFFFFFF).wf = true ∧
    (Instr.dmsUnsupported 7 0x12 .grbg).wf = true ∧ (Instr.rdRsvd 7 0x24).wf = true := by decide

theorem witness_EncodeDecodeKeepsEveryMeaningfulBit :
    (0x1FC : BitVec 9).extractLsb' 0 2 = 0 ∧ (0x000 : BitVec 9).extractLsb' 0 2 = 0 := by decide

theorem witness_JobDecodeIsTotalAndIgnoresReservedBits :
    ((0x00001103 : Word).extractLsb' 8 5).toNat ≤ 0x11 ∧ 0x12 ≤ ((0x00001200 : Word).extractLsb' 8 5).toNat ∧
    (0xFFFFF1FF : Word) &&& 0x1F03 = 0x00001103 &&& 0x1F03 := by decide

theorem witness_IllegalTransactionSetsOnlyTheMark :
    let narrow : Transaction := { readOf 0x04 with size := 2 }
    let s := withMove State.reset (.transact (readOf 0x22))
    let u := withMove State.reset (.transact narrow)
    (s.agenda = .host (.transact (readOf 0x22)) :: [] ∧ routeFrom 0x22 0 s.insts = some (0, 0x22) ∧
      (0x22 : BitVec 8).toNat % 4 ≠ 0) ∧
    (u.agenda = .host (.transact narrow) :: [] ∧ routeFrom narrow.addr 0 u.insts = some (0, 0x04) ∧ narrow.size ≠ 4) ∧
    (answered (step { State.reset with refused := true })).isSome = true := by decide

-- Registers
theorem witness_RegisterReadsReturnTheirWords : State.reset.insts[0]? = some (Engine.reset 0) := by decide

theorem witness_StatusAndResultReads :
    (oneEngine (job44 .i420) []).insts[0]? = some (job44 .i420) ∧ (job44 .i420).Inv launchParams ∧
    ({ Engine.reset 0 with code := .nullPointer } : Engine).code = .nullPointer ∧
    ({ Engine.reset 0 with code := .unsupportedFormat } : Engine).code = .unsupportedFormat := by decide

theorem witness_ConfigWritesStoreWhenIdle :
    State.reset.insts[0]? = some (Engine.reset 0) ∧ (Engine.reset 0).busy = false := by decide

theorem witness_ConfigWritesIgnoredWhileBusy :
    (oneEngine (job44 .i420) []).insts[0]? = some (job44 .i420) ∧ (job44 .i420).busy = true := by decide

theorem witness_StartAcceptedExactlyWhenIdle :
    (twoEngines (Engine.reset 0) (job44 .i420)).insts[0]? = some (Engine.reset 0) ∧ (Engine.reset 0).busy = false ∧
    (twoEngines (Engine.reset 0) (job44 .i420)).insts[1]? = some { job44 .i420 with base := 0x100 } ∧
    (0x00000003 : Word).getLsbD 0 = true ∧ (0xFFFFFFFE : Word).getLsbD 0 = false := by decide

theorem witness_WriteStatusClearsDone :
    (oneEngine { Engine.reset 0 with done := true } []).insts[0]? = some { Engine.reset 0 with done := true } := by decide

theorem witness_IgnoredWritesChangeNothing :
    (oneEngine (job44 .i420) []).insts[0]? = some (job44 .i420) := by decide

theorem witness_InterruptOutputIsDoneAndEnable :
    let e : Engine := { Engine.reset 0 with done := true, irqEn := true }
    (answered (exec (.wrStatus 0 2) (oneEngine e []))).isSome = true ∧ (2 : Word).getLsbD 1 = true ∧
    field Engine.irq (exec (.wrStatus 0 2) (oneEngine e [])) = some false ∧
    field Engine.irq (exec (.wrCtrl 0 2) (oneEngine { e with irqEn := false } [])) = some true ∧
    field Engine.irq (exec (.wrCtrl 0 3) (oneEngine e [])) = some false := by decide

-- VALIDATE
/-- One job without a race and one that a host write raced. -/
theorem witness_NullReferenceEndsWithNullPointer :
    let e : Engine := { job44 .i420 with rawAddr := 0 }
    let d : Engine := { e with raced := true }
    ((oneEngine e []).insts[0]? = some e ∧ e.phase = .validate ∧ (e.rawAddr = 0 ∨ e.dstAddr = 0) ∧ e.raced = false) ∧
    ((oneEngine d frameF1).insts[0]? = some d ∧ d.phase = .validate ∧ (d.rawAddr = 0 ∨ d.dstAddr = 0) ∧
      d.raced = true ∧ (oneEngine d frameF1).mem.wf) := by decide

/-- R65, R239: a host write to DstFP before VALIDATE, and the job ends with NULL_POINTER: the count of draws has
advanced by the 24 bytes of the destination. -/
theorem test_raced_null_job_draws_its_destination :
    let s := (oneEngine { job44 .i420 with rawAddr := 0 } []).setAgenda [.host (.writeByte 0x2000 0x55), .engine 0]
    (answered (Host.Core.run core 2 s)).map (fun t : State => (t.draws, t.insts.map Engine.code)) =
      some (24, [.nullPointer]) := by decide

theorem witness_ReservedFormatEndsWithUnsupportedFormat :
    let e : Engine := { job44 .i420 with format := 0x12 }
    (oneEngine e []).insts[0]? = some e ∧ e.phase = .validate ∧ e.rawAddr ≠ 0 ∧ e.dstAddr ≠ 0 ∧
    0x12 ≤ e.format.toNat := by decide

/-- Odd width with a short stride; the last byte one past the top of the data space; one byte shared. -/
theorem witness_ValidationRecordsEveryViolation :
    let good (e : Engine) := (oneEngine e []).insts[0]? = some e ∧ e.phase = .validate ∧ e.rawAddr ≠ 0 ∧ e.dstAddr ≠ 0
    let odd : Engine := { job44 .i420 with width := 5 }
    let high : Engine := { job44 .i420 with dstAddr := 0xFFFFFFE9 }
    let near : Engine := { job44 .i420 with rawAddr := 0x1FF1 }
    (good odd ∧ odd.width.toNat % 2 = 1 ∧ odd.rawStride.toNat < odd.width.toNat) ∧
    (good high ∧ high.dstAddr.toNat + formatSize .i420 high.frame = 2 ^ 32 + 1) ∧
    (good near ∧ near.rawAddr.toNat + 3 * near.rawStride.toNat + 3 = near.dstAddr.toNat) := by decide

/-- The frame of `job44` and the largest destination that fits. -/
theorem witness_ValidJobEntersRows :
    let e : Engine := { job44 .i420 with dstAddr := 0xFFFFFFE8 }
    (oneEngine e []).insts[0]? = some e ∧ e.phase = .validate ∧ e.rawAddr ≠ 0 ∧ e.dstAddr ≠ 0 ∧
    e.width.toNat % 2 = 0 ∧ e.height.toNat % 2 = 0 ∧ 2 ≤ e.width.toNat ∧ 2 ≤ e.height.toNat ∧
    e.width.toNat ≤ e.rawStride.toNat ∧ e.dstAddr.toNat + formatSize .i420 e.frame = 2 ^ 32 ∧
    e.rawAddr.toNat + (e.height.toNat - 1) * e.rawStride.toNat + e.width.toNat ≤ 2 ^ 32 ∧
    ∀ r < e.height.toNat, ∀ c < e.width.toNat, ¬(e.dstAddr.toNat ≤ e.rawAddr.toNat + r * e.rawStride.toNat + c) := by
  decide

theorem witness_IdleAndFaultedInstancesTakeNoStep :
    let e : Engine := { job44 .i420 with phase := .faulted }
    (State.reset.insts[0]? = some (Engine.reset 0) ∧ (Engine.reset 0).phase = .idle) ∧
    ((oneEngine e []).insts[0]? = some e ∧ e.phase = .faulted) := by decide

-- Tile model and kernel
theorem witness_RowReferencesClosedForm : (2 ^ 32 - 2) + 1 < 2 ^ 32 := by decide

/-- The overlapping job's destination begins right after the last byte of the raw frame. -/
theorem witness_KernelReadsTheTwoByTwoBlock :
    let fp : Footprint := ({ job44 .i420 with dstAddr := 0x1010 } : Engine).footprint launchParams
    let e : Engine := { rows44 .rgb888 with clash := [fp] }
    (fp.inDst 0x1010 = true ∧
      ∀ a ∈ pairReads launchParams e.frame e.advanced.geom e.c.toNat, ∀ fp ∈ e.clash, fp.inDst a = false) ∧
    (rows44 .rgb888).clash = [] ∧ (rows44 .rgb888).c.toNat + 4 ≤ (rows44 .rgb888).width.toNat ∧
    ({ rows44 .rgb888 with c := 2 } : Engine).width.toNat < ({ rows44 .rgb888 with c := 2 } : Engine).c.toNat + 4 ∧
    launchParams.edgeRight = .draw ∧
    ({ launchParams with edgeRight := .reference } : Params).edgeRight = .reference := by decide

theorem witness_NativeSamplesAreExactAtEvenColumns :
    (2 + 1 < 2 ^ 32) ∧ 2 % 2 = (patternTable .rggb).redRow.toNat ∧ (patternTable .rggb).redCol = 0 ∧
    2 % 2 = (patternTable .grbg).redRow.toNat ∧ (patternTable .grbg).redCol = 1 ∧
    2 % 2 = (patternTable .bggr).blueRow.toNat ∧ (patternTable .bggr).blueCol = 0 ∧
    2 % 2 = (patternTable .gbrg).blueRow.toNat ∧ (patternTable .gbrg).blueCol = 1 := by decide

-- One column pair
/-- What the pair statements of the RGB formats ask, at the first pair and at the last pair of the last row. -/
theorem witness_StoresRgbPair (fmt : Format) :
    let e := rows44 fmt
    let d : Engine := { e with k := 2, c := 2, geom := rowGeometry (physPatternOf fmt .rggb) 2 }
    ((oneEngine e frameF1).PairReady 0 e ∧ ∀ bpp ≤ 4, ∀ j < 2 * bpp, canWrite launchParams
      (e.dstAddr.toNat + (e.k.toNat * e.width.toNat + e.c.toNat) * bpp + j) = true) ∧
    ((oneEngine d frameF1).PairReady 0 d ∧ ∀ bpp ≤ 4, ∀ j < 2 * bpp, canWrite launchParams
      (d.dstAddr.toNat + (d.k.toNat * d.width.toNat + d.c.toNat) * bpp + j) = true) := by cases fmt <;> decide

/-- What the pair statements of the YUV layouts ask, likewise; the stores of I444 reach furthest. -/
theorem witness_StoresYuvPair (fmt : Format) (l r : Triple) :
    let e := rows44 fmt
    let d : Engine := { e with k := 2, c := 2, geom := rowGeometry (physPatternOf fmt .rggb) 2 }
    ((oneEngine e frameF1).PairReady 0 e ∧ e.Inv launchParams ∧
      ∀ x ∈ sinkI444 e.frame 0 0 l r, canWrite launchParams x.1 = true) ∧
    ((oneEngine d frameF1).PairReady 0 d ∧ d.Inv launchParams ∧
      ∀ x ∈ sinkI444 d.frame 2 2 l r, canWrite launchParams x.1 = true) := by
  simp only [sinkI444, storeY, List.cons_append, List.nil_append, List.forall_mem_cons]
  cases fmt <;> exact ⟨⟨by decide, by decide, by decide⟩, by decide, by decide, by decide⟩

theorem witness_RefusedAccessFaultsTheInstance :
    let e := rows44 .alpha8
    let s : State := { oneEngine e [] with params := { launchParams with noRead := [⟨0x1005, 0x1005⟩] } }
    let u : State := { oneEngine e [] with params := { launchParams with noWrite := [⟨0x2001, 0x2001⟩] } }
    (s.insts[0]? = some e ∧ e.phase = .rows ∧
      (pairReads s.params e.frame e.advanced.geom e.c.toNat).all (canRead s.params) = false) ∧
    u.PairReady 0 e ∧
    sink .alpha8 e.frame e.k.toNat e.c.toNat (u.leftOf e) (u.rightOf e) = [(0x2000, 0xFF)] ++ (0x2001, 0xFF) :: [] ∧
    canWrite u.params 0x2000 = true ∧ canWrite u.params 0x2001 = false := by decide

/-- The last plane of I444: its second byte cannot be written, or cannot be read. -/
theorem witness_RefusedAccessFaultsTheInstance_border :
    let e := border44 .i444 2
    let r : RowCopy := { base := 0x2020, pitch := 4, src := 2, dst := 3 }
    let s : State := { oneEngine e [] with params := { launchParams with noWrite := [⟨0x202D, 0x202D⟩] } }
    let u : State := { oneEngine e [] with params := { launchParams with noRead := [⟨0x2029, 0x2029⟩] } }
    (s.insts[0]? = some e ∧ e.phase = .border ∧ s.mem.wf ∧
      (borderPlanes s.params .i444 e.frame)[e.plane]? = some r ∧ 1 < r.pitch) ∧
    (∀ j < 1, canRead s.params (r.base + r.src * r.pitch + j) = true ∧
      canWrite s.params (r.base + r.dst * r.pitch + j) = true) ∧
    canWrite s.params (r.base + r.dst * r.pitch + 1) = false ∧
    (u.insts[0]? = some e ∧ (borderPlanes u.params .i444 e.frame)[e.plane]? = some r) ∧
    canRead u.params (r.base + r.src * r.pitch + 0) = true ∧
    canRead u.params (r.base + r.src * r.pitch + 1) = false := by decide

theorem witness_GroupStepEqualsPairSteps :
    let s : State := { oneEngine (rows44 .alpha8) [] with params := { launchParams with groupPairs := .eight } }
    s.insts[0]? = some (rows44 .alpha8) ∧ (rows44 .alpha8).Inv s.params ∧ (rows44 .alpha8).phase = .rows ∧
    (answered (exec (jobInstr 0 .rggb .alpha8) s)).isSome = true := by decide

-- BORDER and completion
theorem witness_BorderStepCopiesOneRow :
    let s := oneEngine (border44 .i444 2) []
    let r : RowCopy := { base := 0x2020, pitch := 4, src := 2, dst := 3 }
    s.insts[0]? = some (border44 .i444 2) ∧ (border44 .i444 2).phase = .border ∧ s.mem.wf ∧
    (borderPlanes s.params .i444 (border44 .i444 2).frame)[(border44 .i444 2).plane]? = some r ∧
    ∀ i < r.pitch, canRead s.params (r.base + r.src * r.pitch + i) = true ∧
      canWrite s.params (r.base + r.dst * r.pitch + i) = true := by decide

theorem witness_CompletionReportsSuccess :
    let e := border44 .i444 3
    (oneEngine e []).insts[0]? = some e ∧ e.phase = .border ∧
    (borderPlanes launchParams .i444 e.frame).length ≤ e.plane ∧ e.raced = false ∧ e.clash = [] := by decide

theorem witness_RaceMakesDestinationFree :
    let e : Engine := { border44 .i444 3 with raced := true }
    (oneEngine e frameF1).insts[0]? = some e ∧ e.phase = .border ∧ (oneEngine e frameF1).mem.wf ∧
    (borderPlanes launchParams .i444 e.frame).length ≤ e.plane ∧ e.raced = true := by decide

theorem launchParams_admitsAll : launchParams.AdmitsAll := by
  intro a h
  simpa [canRead, canWrite, launchParams] using h

theorem witness_BorderReplicatesTheLastRow :
    let s := oneEngine (border44 .nv12 0) frameF1
    (s.Inv ∧ s.insts[0]? = some (border44 .nv12 0) ∧ formatOfCode (border44 .nv12 0).format = some .nv12 ∧
      (border44 .nv12 0).phase = .border ∧ (border44 .nv12 0).plane = 0 ∧ (border44 .nv12 0).raced = false ∧
      (border44 .nv12 0).clash = []) ∧ s.params.AdmitsAll := ⟨by decide, launchParams_admitsAll⟩

-- Whole jobs
theorem job44_startable (fmt : Format) : (job44 fmt).Startable launchParams fmt := by
  cases fmt <;> exact ⟨by decide, by decide, by decide⟩

theorem witness_ValidJobCompletesInCountedSteps (fmt : Format) :
    let s := oneEngine (job44 fmt) frameF1
    s.insts[0]? = some (job44 fmt) ∧ (job44 fmt).phase = .validate ∧ (job44 fmt).Startable s.params fmt ∧
    s.params.AdmitsAll := ⟨rfl, rfl, job44_startable fmt, launchParams_admitsAll⟩

theorem witness_Alpha8JobFillsItsDestination :
    let s := oneEngine (job44 .alpha8) frameF1
    s.insts[0]? = some (job44 .alpha8) ∧ s.mem.wf ∧ (job44 .alpha8).phase = .validate ∧
    (job44 .alpha8).Startable s.params .alpha8 ∧ s.params.AdmitsAll ∧ (job44 .alpha8).raced = false ∧
    (job44 .alpha8).clash = [] := ⟨rfl, by decide, rfl, job44_startable _, launchParams_admitsAll, rfl, rfl⟩

theorem witness_JobWritesOnlyItsDestination :
    let s := oneEngine (rows44 .i444) frameF1
    s.Inv ∧ s.insts[0]? = some (rows44 .i444) ∧ formatOfCode (rows44 .i444).format = some .i444 ∧
    (answered (exec (jobInstr 0 (rows44 .i444).pattern .i444) s)).isSome = true := by decide

/-- The last pair of a frame whose row H - 1 ends at the top of the data space. -/
theorem witness_PairReadsLieInTheRawFootprint :
    let e : Engine := { rows44 .i444 with rawAddr := 0xFFFFFFF0, k := 2, c := 2, geom := rowGeometry .rggb 2 }
    e.Inv launchParams ∧ e.phase = .rows := by decide

-- The machine
theorem witness_StepRunsTheDecodedTransaction :
    let s := withMove State.reset (.transact (readOf 0xFC))
    s.agenda = .host (.transact (readOf 0xFC)) :: [] ∧ routeFrom 0xFC 0 s.insts = some (0, 0xFC) ∧
    (readOf 0xFC).size = 4 ∧ (0xFC : BitVec 8).toNat % 4 = 0 := by decide

theorem witness_StepRunsTheJobOperation :
    let s := (oneEngine (job44 .i420) []).setAgenda [.engine 0]
    let u := twoEngines { job44 .i420 with phase := .faulted } (job44 .i420)
    (s.agenda = .engine 0 :: [] ∧ s.insts[0]? = some (job44 .i420)) ∧
    (u.agenda = [] ∧ u.insts[1]? = some { job44 .i420 with base := 0x100 } ∧ (job44 .i420).busy = true ∧
      (job44 .i420).phase ≠ .faulted) ∧
    (State.reset.agenda = [] ∧ ∀ d ∈ State.reset.insts, d.busy = false ∨ d.phase = .faulted) := by decide

theorem witness_WindowsRouteTransactions :
    let s := twoEngines (Engine.reset 0) (Engine.reset 0)
    s.insts[1]? = some { Engine.reset 0 with base := 0x100 } ∧ 0x100 ≤ ((0x100 : Word) + 0xFC - 0).toNat ∧
    ∀ d ∈ s.insts, 0x100 ≤ ((0x200 : Word) - d.base).toNat := by decide

/-- The last byte of the destination, the byte after it, and the last raw byte. -/
theorem witness_HostAccessDuringAJob :
    let s := oneEngine (job44 .i420) []
    (∃ e ∈ s.insts, e.busy = true ∧ (e.footprint s.params).inDst 0x2017 = true) ∧
    (∀ e ∈ s.insts, e.busy = true → (e.footprint s.params).inDst 0x2018 = false) ∧
    (∃ e ∈ s.insts, e.busy = true ∧ 0x100F = 0x1000 + 3 * 4 + 3) ∧ s.mem.wf := by decide

theorem witness_OverlappingJobsAreNotedAndDrawn :
    let e : Engine := { job44 .i420 with busy := false, phase := .idle }
    let d : Engine := { job44 .rgb565 with dstAddr := 0x2017 }
    let b : Engine := { border44 .rgb565 1 with clash := [e.footprint launchParams] }
    (e.busy = false ∧ d.busy = true ∧ (1 : Word).getLsbD 0 = true ∧
      (answered (exec (.wrCtrl 0 1) (twoEngines e d))).isSome = true ∧
      (e.footprint launchParams).overlaps (d.footprint launchParams) = true) ∧
    (e.footprint launchParams ∈ b.clash ∧ (e.footprint launchParams).inDst 0x2017 = true) ∧
    (∀ fp ∈ b.clash, fp.inDst 0x2018 = false) ∧
    (b.phase = .border ∧ (borderPlanes launchParams .rgb565 b.frame).length ≤ b.plane ∧ b.raced = false) := by decide

theorem witness_ResetReturnsAnInstanceToItsResetValues :
    let s := (oneEngine (job44 .i420) frameF1).setAgenda [.reset 0]
    s.agenda = .reset 0 :: [] ∧ s.insts[0]? = some (job44 .i420) ∧ s.mem.wf ∧ (job44 .i420).busy = true ∧
    (Engine.reset 0).busy = false := by decide

/-- The second of two instances, with its window at 0x100, while the first is BUSY. -/
theorem witness_StartAfterResetEndsWithNullPointer :
    let t : Transaction := { write := true, addr := 0x100, size := 4, wdata := 0xFFFFFFFF }
    let s := (twoEngines (job44 .i420) (Engine.reset 0)).setAgenda [.host (.transact t), .engine 1]
    s.insts[1]? = some (Engine.reset 0x100) ∧ routeFrom 0x100 0 s.insts = some (1, 0) ∧
    (0xFFFFFFFF : Word).getLsbD 0 = true ∧ (1 : Word).getLsbD 0 = true ∧
    s.agenda = .host (.transact t) :: .engine 1 :: [] := by decide

theorem witness_StepKeepsTheInvariant :
    (oneEngine (rows44 .i420) frameF1).Inv ∧ (oneEngine (border44 .i420 0) frameF1).Inv ∧
    (answered (step (oneEngine (rows44 .i420) frameF1))).isSome = true := by decide

theorem witness_ConfigurationIsFixedWhileBusy :
    field Engine.busy (step (oneEngine (rows44 .i420) frameF1)) = some true ∧ (rows44 .i420).busy = true := by decide

theorem witness_MarksAndParametersArePermanent :
    (answered (step { State.reset with refused := true, faults := FaultSet.memOnly })).isSome = true := by decide

end Sys2Proof.Machine
end

/-! ## What one step can do

Every answer of `step` is one of finitely many updates of the state. `step_effect` says so once, with the guard of
each; the invariants of the machine are case splits over `Effect`. -/

namespace Sys2Proof.Machine

/-- The configuration registers, and they alone, may take other values (R187 to R198). -/
def Engine.Reconfigured (e e' : Engine) : Prop :=
  ∃ pat fmt a p w h d, e' = { e with
    pattern := pat, format := fmt, rawAddr := a, rawStride := p, width := w, height := h, dstAddr := d }

/-- Everything one move can make of the state `s` (R20, R169), the agenda aside. -/
inductive Effect (s : State) : State → Prop
  /-- nothing: an ignored write (R42, R186, R200), or an instance with no enabled step (R214, R225) -/
  | stay : Effect s s
  /-- a register read (R180) -/
  | read (v : Word) : Effect s (s.setRdata v)
  /-- a write of CTRL that starts no job (R182) -/
  | writeIrqEn {n e} (b : Bool) : s.insts[n]? = some e → Effect s (s.setInst n { e with irqEn := b })
  /-- an accepted START (R160, R182) -/
  | start {n e} (b : Bool) : s.insts[n]? = some e → e.busy = false →
      Effect s (acceptStart n { e with irqEn := b } s)
  /-- DONE is cleared (R184) -/
  | clearDone {n e} : s.insts[n]? = some e → Effect s (s.setInst n e.doneCleared)
  /-- a write of a configuration register of an instance that is not BUSY (R42, R238) -/
  | configure {n e e'} : s.insts[n]? = some e → e.busy = false → e.Reconfigured e' → Effect s (s.setInst n e')
  /-- a refused register access (R90, R215) -/
  | refuse (t : Transaction) : Effect s (refuseAccess t s)
  /-- a host read of the data space (R65) -/
  | readByte (a : Word) : Effect s (readByteMove a s)
  /-- a host write of the data space (R65) -/
  | writeByte (a : Word) (v : Byte) : Effect s (writeByteMove a v s)
  /-- VALIDATE of a job with a supported format (R161) -/
  | validate {n e fmt} : s.insts[n]? = some e → formatOfCode e.format = some fmt → e.phase = .validate →
      Effect s (validateStep fmt n e.pattern e s)
  /-- a step of phase ROWS (R165, R172) -/
  | rows {n e fmt} : s.insts[n]? = some e → formatOfCode e.format = some fmt → e.phase = .rows →
      Effect s (rowsStep fmt n e s)
  /-- a step of phase BORDER (R170) -/
  | border {n e fmt} : s.insts[n]? = some e → formatOfCode e.format = some fmt → e.phase = .border →
      Effect s (borderStep fmt n e s)
  /-- the step of a job with a reserved format (R85, R211) -/
  | unsupported {n e} : s.insts[n]? = some e → formatOfCode e.format = none → e.phase ≠ .idle →
      e.phase ≠ .faulted → Effect s (validateUnsupported n e s)
  /-- a reset (R230) -/
  | reset {n e} : s.insts[n]? = some e → Effect s (resetInst n e s)

/-! ### Register operations -/

/-- The operation at an aligned offset of a read is a register read, whatever the offset (R89, R180). -/
theorem exec_readAt (n : Nat) (o : BitVec 8) (s : State) : ∃ word, exec (readAt n o) s = readReg n word s := by
  unfold readAt
  split_ifs <;> exact ⟨_, rfl⟩

theorem readReg_effect {n : Nat} {word : Engine → Word} {s t : State} (h : readReg n word s = .next t) :
    Effect s t := by
  obtain ⟨e, -, rfl⟩ := withInst_next h
  exact .read _

theorem execWrCtrl_effect {n : Nat} {w : Word} {s t : State} (h : execWrCtrl n w s = .next t) : Effect s t := by
  obtain ⟨e, he, rfl⟩ := withInst_next h
  dsimp only
  split
  · rename_i hstart
    obtain ⟨-, hidle⟩ : w.getLsbD 0 = true ∧ e.busy = false := by simpa using hstart
    exact .start _ he hidle
  · exact .writeIrqEn _ he

theorem execWrStatus_effect {n : Nat} {w : Word} {s t : State} (h : execWrStatus n w s = .next t) : Effect s t := by
  obtain ⟨e, he, rfl⟩ := withInst_next h
  dsimp only
  split
  · exact .clearDone he
  · rw [State.setInst_self s n e he]; exact .stay

/-- A write that is accepted and ignored (R186, R200). -/
theorem writeReg_ignored_effect {n : Nat} {s t : State} (h : writeReg n (fun e => e) s = .next t) : Effect s t := by
  obtain ⟨e, he, rfl⟩ := withInst_next h
  rw [State.setInst_self s n e he]; exact .stay

theorem writeConfig_effect {n : Nat} {upd : Engine → Engine} {s t : State} (hupd : ∀ e : Engine, e.Reconfigured (upd e))
    (h : writeConfig n upd s = .next t) : Effect s t := by
  obtain ⟨e, he, rfl⟩ := withInst_next h
  dsimp only
  split
  · rw [State.setInst_self s n e he]; exact .stay
  · rename_i hb
    exact .configure he (by simpa using hb) (hupd e)

/-- Every register write (R89), by its offset. -/
theorem exec_writeAt_effect {n : Nat} {o : BitVec 8} {w : Word} {s t : State}
    (h : exec (writeAt n o w) s = .next t) : Effect s t := by
  unfold writeAt at h
  split_ifs at h
  case pos => exact execWrCtrl_effect h
  case pos => exact execWrStatus_effect h
  case pos => exact writeReg_ignored_effect h
  case neg => exact writeReg_ignored_effect h
  -- what is left are the six configuration registers
  all_goals exact writeConfig_effect (fun _ => ⟨_, _, _, _, _, _, _, rfl⟩) h

/-- An encoded transaction decodes to the read or the write at its offset, or to nothing (R82, R89, R90). -/
theorem decode_mmio_cases {n size : Nat} {tx : BitVec 9} {w : Word} {i : Instr}
    (h : decode (.mmio n tx size w) = .ok i) : (∃ o, i = readAt n o) ∨ ∃ o, i = writeAt n o w := by
  simp only [decode, decodeTx] at h
  split_ifs at h <;> cases h
  · exact .inr ⟨_, rfl⟩
  · exact .inl ⟨_, rfl⟩

/-! ### Moves -/

/-- A transaction is presented as a transaction, never as a job word (R82). -/
theorem route_eq_mmio {s : State} {t : Transaction} {x : Encoded} (h : s.route t = some x) :
    ∃ n o, x = .mmio n (packTx t.write o) t.size t.wdata := by
  unfold State.route at h
  split at h <;> cases h
  exact ⟨_, _, rfl⟩

theorem transactMove_effect {t : Transaction} {s u : State} (h : transactMove t s = .next u) : Effect s u := by
  unfold transactMove at h
  split at h
  · cases h
  · rename_i x hx
    obtain ⟨n, o, rfl⟩ := route_eq_mmio hx
    split at h
    · rename_i i hi
      rcases decode_mmio_cases hi with ⟨o', rfl⟩ | ⟨o', rfl⟩
      · obtain ⟨word, hr⟩ := exec_readAt n o' s
        exact readReg_effect (hr ▸ h)
      · exact exec_writeAt_effect h
    · cases h
      exact .refuse t

theorem hostMove_effect {a : HostAction} {s t : State} (h : hostMove a s = .next t) : Effect s t := by
  cases a with
  | transact x => exact transactMove_effect h
  | readByte a => cases h; exact .readByte a
  | writeByte a v => cases h; exact .writeByte a v

/-- An engine step, by the format of the job and its phase (R88, R169). -/
theorem engineMove_effect {n : Nat} {s t : State} (h : engineMove n s = .next t) : Effect s t := by
  unfold engineMove at h
  split at h
  · rename_i e he
    rcases jobInstr_cases n e with ⟨fmt, hf, hi⟩ | ⟨hf, hi⟩ <;> rw [hi] at h
    · rw [exec_jobInstr, driverStep_some _ _ he] at h
      cases hp : e.phase <;> rw [hp] at h <;> cases h
      · exact .stay
      · exact .validate he hf hp
      · exact .rows he hf hp
      · exact .border he hf hp
      · exact .stay
    · rw [exec_unsupported _ _ he] at h
      cases hp : e.phase <;> rw [hp] at h <;> cases h
      · exact .stay
      · exact .unsupported he hf (by simp [hp]) (by simp [hp])
      · exact .unsupported he hf (by simp [hp]) (by simp [hp])
      · exact .unsupported he hf (by simp [hp]) (by simp [hp])
      · exact .stay
  · cases h

theorem performMove_effect {mv : Move} {s t : State} (h : performMove mv s = .next t) : Effect s t := by
  cases mv with
  | host a => exact hostMove_effect h
  | engine n => exact engineMove_effect h
  | reset n =>
    obtain ⟨e, he, rfl⟩ := withInst_next h
    exact .reset he

theorem idleMove_effect {s t : State} (h : idleMove s = .next t) : Effect s t := by
  unfold idleMove at h
  split at h
  · exact engineMove_effect h
  · cases h; exact .stay

/-- Everything one step can do (R169): the first pending move leaves the agenda, if there is one, and the rest of the
state changes by one `Effect`. -/
theorem step_effect {s t : State} (h : step s = .next t) : Effect (s.setAgenda s.agenda.tail) t := by
  unfold step at h
  split at h
  · rename_i ha
    have hs : s.setAgenda s.agenda.tail = s := by rw [ha, List.tail_nil, ← ha]; rfl
    rw [hs]
    exact idleMove_effect h
  · rename_i mv rest ha
    rw [ha]
    exact performMove_effect h

end Sys2Proof.Machine

/-! ## What no step takes back

O60: the recorded faults and the refusal mark only grow, and the launch parameters and the instances stay. -/

namespace Sys2Proof.Machine

/-- From `s` to `t`, no recorded fault (R40) and no refusal mark (R215) is lost, and the parameters and the number of
instances (R8) are the same. -/
structure State.Kept (s t : State) : Prop where
  faults  : s.faults.union t.faults = t.faults
  refused : s.refused = true → t.refused = true
  params  : t.params = s.params
  length  : t.insts.length = s.insts.length

/-- A state with the faults, the mark, the parameters and as many instances keeps them. -/
theorem State.Kept.of_eq {s t : State} (hf : t.faults = s.faults) (hr : t.refused = s.refused)
    (hp : t.params = s.params) (hl : t.insts.length = s.insts.length) : s.Kept t :=
  ⟨by rw [hf, FaultSet.union_self], fun h => hr.trans h, hp, hl⟩

theorem setInst_kept (n : Nat) (e : Engine) (s : State) : s.Kept (s.setInst n e) :=
  .of_eq rfl rfl rfl List.length_set

theorem acceptStart_kept (n : Nat) (e : Engine) (s : State) : s.Kept (acceptStart n e s) :=
  .of_eq rfl rfl rfl (acceptStart_length n e s)

theorem complete_kept (code : ResultCode) (fmt : Option Format) (n : Nat) (e : Engine) (s : State) :
    s.Kept (complete code fmt n e s) := by
  rw [complete_eq]
  exact .of_eq rfl rfl rfl List.length_set

/-- A validation fault joins those recorded before (R161, R214). -/
theorem raiseFaults_kept (n : Nat) (f : FaultSet) (e : Engine) (s : State) : s.Kept (raiseFaults n f e s) :=
  ⟨FaultSet.union_left _ _, id, rfl, List.length_set⟩

/-- An engine step records at most F_MEM, besides what was recorded before (R214). -/
theorem commit_kept (n : Nat) (w : Work) (s : State) : s.Kept (s.commit n w) where
  faults := by
    rw [State.commit_faults]
    split
    · exact FaultSet.union_left _ _
    · exact FaultSet.union_self _
  refused h := (s.commit_refused n w).trans h
  params := s.commit_params n w
  length := by rw [State.commit_insts, List.length_set]

theorem validateStep_kept (fmt : Format) (n : Nat) (pat : Pattern) (e : Engine) (s : State) :
    s.Kept (validateStep fmt n pat e s) := by
  unfold validateStep
  split_ifs
  · exact complete_kept _ _ n e s
  · exact setInst_kept n _ s
  · exact raiseFaults_kept n _ e s

theorem validateUnsupported_kept (n : Nat) (e : Engine) (s : State) : s.Kept (validateUnsupported n e s) := by
  unfold validateUnsupported
  split_ifs <;> exact complete_kept _ _ n e s

theorem borderStep_kept (fmt : Format) (n : Nat) (e : Engine) (s : State) : s.Kept (borderStep fmt n e s) := by
  unfold borderStep
  split
  · exact commit_kept n _ s
  · exact complete_kept _ _ n e s

/-- A refused access sets the mark (R215). -/
theorem refuseAccess_kept (t : Transaction) (s : State) : s.Kept (refuseAccess t s) := by
  unfold refuseAccess
  split <;> exact ⟨FaultSet.union_self _, fun _ => rfl, rfl, rfl⟩

theorem readByteMove_kept (a : Word) (s : State) : s.Kept (readByteMove a s) := by
  unfold readByteMove
  split <;> exact .of_eq rfl rfl rfl rfl

theorem writeByteMove_kept (a : Word) (v : Byte) (s : State) : s.Kept (writeByteMove a v s) :=
  .of_eq rfl rfl rfl (List.length_map _)

/-- A reset leaves the faults and the mark (R40, R230). -/
theorem resetInst_kept (n : Nat) (e : Engine) (s : State) : s.Kept (resetInst n e s) := by
  unfold resetInst
  dsimp only
  split <;> exact .of_eq rfl rfl rfl List.length_set

/-- No move takes back a fault, the mark, a parameter or an instance. -/
theorem Effect.kept {s t : State} (h : Effect s t) : s.Kept t := by
  cases h with
  | stay | read => exact .of_eq rfl rfl rfl rfl
  | writeIrqEn | clearDone | configure => exact setInst_kept _ _ s
  | start => exact acceptStart_kept _ _ s
  | refuse x => exact refuseAccess_kept x s
  | readByte a => exact readByteMove_kept a s
  | writeByte a v => exact writeByteMove_kept a v s
  | validate => exact validateStep_kept _ _ _ _ s
  | rows => exact commit_kept _ _ s
  | border => exact borderStep_kept _ _ _ s
  | unsupported => exact validateUnsupported_kept _ _ s
  | reset => exact resetInst_kept _ _ s

/-- Settles O60: every effect of a step keeps the marks and the parameters, and taking a move off the agenda touches
none of them. -/
theorem marksAndParametersArePermanent : Obligations.MarksAndParametersArePermanent := by
  unfold Obligations.MarksAndParametersArePermanent
  refine ⟨rfl, fun s t h => ?_⟩
  obtain ⟨hfaults, hrefused, hparams, hlength⟩ := (step_effect h).kept
  exact ⟨hfaults, hrefused, hparams, hlength⟩

end Sys2Proof.Machine

/-! ## What every step keeps of an instance

O57 and O58: the invariant holds at launch and every `Effect` keeps it. -/

namespace Sys2Proof.Machine

/-! ### One instance -/

/-- An instance that runs no job meets the invariant, whatever its registers hold. -/
theorem Engine.inv_of_idle {p : Params} {e : Engine} (hb : e.busy = false) (hp : e.phase = .idle) : e.Inv p := by
  simp [Engine.Inv, hb, hp]

/-- So does a job that stands before VALIDATE or has faulted: of the registers it asks for BUSY and DONE alone. -/
theorem Engine.inv_of_waiting {p : Params} {e : Engine} (hb : e.busy = true) (hd : e.done = false)
    (hp : e.phase = .validate ∨ e.phase = .faulted) : e.Inv p := by
  rcases hp with hp | hp <;> simp [Engine.Inv, hb, hd, hp]

theorem Engine.Inv.phase_of_not_busy {p : Params} {e : Engine} (h : e.Inv p) (hb : e.busy = false) :
    e.phase = .idle := by
  obtain ⟨hbusy, -⟩ := h
  by_contra hp
  simp [hb, hp] at hbusy

/-- An instance in a phase other than IDLE is BUSY and not DONE (R25, R36). -/
theorem Engine.Inv.flags {p : Params} {e : Engine} (h : e.Inv p) (hp : e.phase ≠ .idle) :
    e.busy = true ∧ e.done = false := by
  obtain ⟨hbusy, hdone, -⟩ := h
  exact ⟨hbusy.mpr hp, hdone (hbusy.mpr hp)⟩

/-- A job that becomes FAULTED keeps its flags (R214). -/
theorem Engine.Inv.faulted {p : Params} {e : Engine} (h : e.Inv p) (hp : e.phase ≠ .idle) :
    Engine.Inv p { e with phase := .faulted } := by
  obtain ⟨hb, hd⟩ := h.flags hp
  exact Engine.inv_of_waiting hb hd (.inr rfl)

theorem Engine.Inv.doneCleared {p : Params} {e : Engine} (h : e.Inv p) : e.doneCleared.Inv p := by
  obtain ⟨hbusy, -, hjob, hrows⟩ := h
  exact ⟨hbusy, fun _ => rfl, hjob, hrows⟩

/-- The invariant says nothing of the record of R70. -/
theorem Engine.Inv.noteClash {p : Params} {e : Engine} (h : e.Inv p) (fp : Footprint) : (e.noteClash p fp).Inv p := by
  unfold Engine.noteClash
  split <;> exact h

/-- The invariant says nothing of the record of R65. -/
theorem Engine.Inv.hitBy {p : Params} {e : Engine} (h : e.Inv p) (a : Nat) : (e.hitBy p a).Inv p := by
  unfold Engine.hitBy
  split <;> exact h

/-- A frame that does not violate F_GEOMETRY holds at least one tile (R162). -/
theorem two_le_of_violations_empty {p : Params} {fmt : Format} {f : Frame}
    (h : violations p fmt f = FaultSet.empty) : 2 ≤ f.W ∧ 2 ≤ f.H := by
  have hgeo : geometryViolated f = false := congrArg FaultSet.geometry h
  simp only [geometryViolated, decide_eq_false_iff_not, not_or] at hgeo
  omega

/-- A job that VALIDATE lets pass enters ROWS before the first pair of row 0, in the geometry of that row (R163). -/
theorem Engine.Inv.enterRows {p : Params} {e : Engine} {fmt : Format} (h : e.Inv p) (hp : e.phase ≠ .idle)
    (hfmt : formatOfCode e.format = some fmt) (hnull : e.nullRef = false)
    (hok : violations p fmt e.frame = FaultSet.empty) : (e.enterRows fmt e.pattern).Inv p := by
  obtain ⟨hb, hd⟩ := h.flags hp
  obtain ⟨hW, hH⟩ := two_le_of_violations_empty hok
  have hjob : (e.enterRows fmt e.pattern).jobValid p = true := by
    have hnull' : (e.enterRows fmt e.pattern).nullRef = false := hnull
    have hok' : violations p fmt (e.enterRows fmt e.pattern).frame = FaultSet.empty := hok
    simp [Engine.jobValid, hfmt, hnull', hok']
  have hrows : (e.enterRows fmt e.pattern).rowsValid = true := by
    rw [Engine.rowsValid_iff]
    exact ⟨by simpa using hH, by simpa using hW, rfl, rfl⟩
  exact ⟨by simp [hb], fun _ => hd, fun _ => hjob, fun _ => hrows⟩

/-- A row copy moves `plane` on, of which the invariant says nothing, or leaves the instance FAULTED (R170). -/
theorem copyWork_inv (p : Params) (r : RowCopy) (w : Work) (hp : w.eng.phase = .border) (h : w.eng.Inv p) :
    (copyWork p r w).eng.Inv p := by
  rcases copyWork_cases p r w with ⟨-, hw⟩ | ⟨-, hw⟩ <;> rw [hw]
  · exact h
  · exact h.faulted (by simp [hp])

/-! ### The machine -/

theorem State.Inv.of_eq {s t : State} (h : s.Inv) (hm : t.mem = s.mem) (hi : t.insts = s.insts)
    (hp : t.params = s.params) : t.Inv := by
  unfold State.Inv
  rwa [hm, hi, hp]

theorem State.Inv.of_getElem? {s : State} {n : Nat} {e : Engine} (h : s.Inv) (he : s.insts[n]? = some e) :
    e.Inv s.params :=
  h.2 e (List.mem_of_getElem? he)

/-- Putting an instance that meets the invariant in the place of another keeps the invariant of the instances. -/
theorem State.Inv.set_insts {s : State} {d : Engine} (h : s.Inv) (n : Nat) (hd : d.Inv s.params) :
    ∀ e ∈ s.insts.set n d, e.Inv s.params := fun e he =>
  (List.mem_or_eq_of_mem_set he).elim (h.2 e) fun hed => hed ▸ hd

theorem State.Inv.setInst {s : State} {d : Engine} (h : s.Inv) (n : Nat) (hd : d.Inv s.params) :
    (s.setInst n d).Inv :=
  ⟨h.1, h.set_insts n hd⟩

/-- A START leaves its instance before VALIDATE (R160) and notes overlaps on the others (R70). -/
theorem acceptStart_inv {s : State} (n : Nat) (e : Engine) (h : s.Inv) : (acceptStart n e s).Inv := by
  refine ⟨h.1, fun d hd => ?_⟩
  rcases List.mem_or_eq_of_mem_set hd with hd | rfl
  · obtain ⟨x, hx, rfl⟩ := List.mem_map.mp hd
    exact (h.2 x hx).noteClash _
  · exact Engine.inv_of_waiting rfl rfl (.inl rfl)

/-- A completion leaves the instance IDLE (R176). -/
theorem complete_inv {s : State} (code : ResultCode) (fmt : Option Format) (n : Nat) (e : Engine) (h : s.Inv) :
    (complete code fmt n e s).Inv := by
  refine ⟨complete_wf code fmt n e s h.1, ?_⟩
  rw [complete_eq]
  exact h.set_insts n (Engine.inv_of_idle rfl rfl)

theorem commit_inv {s : State} {w : Work} (n : Nat) (h : s.Inv) (hm : w.mem.wf) (hw : w.eng.Inv s.params) :
    (s.commit n w).Inv := by
  unfold State.Inv
  rw [State.commit_mem, State.commit_insts, State.commit_params]
  exact ⟨hm, h.set_insts n hw⟩

theorem validateStep_inv {s : State} {n : Nat} {e : Engine} {fmt : Format} (h : s.Inv) (he : s.insts[n]? = some e)
    (hfmt : formatOfCode e.format = some fmt) (hp : e.phase = .validate) :
    (validateStep fmt n e.pattern e s).Inv := by
  have hphase : e.phase ≠ .idle := by simp [hp]
  have hinv := h.of_getElem? he
  unfold validateStep
  split_ifs with hnull hok
  · exact complete_inv _ _ n e h
  · exact h.setInst n (hinv.enterRows hphase hfmt (by simpa using hnull) hok)
  · exact h.setInst n (hinv.faulted hphase)

theorem validateUnsupported_inv {s : State} (n : Nat) (e : Engine) (h : s.Inv) :
    (validateUnsupported n e s).Inv := by
  unfold validateUnsupported
  split_ifs <;> exact complete_inv _ _ n e h

theorem rowsStep_inv {s : State} {n : Nat} {e : Engine} (fmt : Format) (h : s.Inv) (he : s.insts[n]? = some e)
    (hp : e.phase = .rows) : (rowsStep fmt n e s).Inv :=
  commit_inv n h (groupWork_wf _ _ _ _ hp h.1) (groupWork_inv _ _ _ _ hp (h.of_getElem? he))

theorem borderStep_inv {s : State} {n : Nat} {e : Engine} (fmt : Format) (h : s.Inv) (he : s.insts[n]? = some e)
    (hp : e.phase = .border) : (borderStep fmt n e s).Inv := by
  unfold borderStep
  split
  · exact commit_inv n h (copyWork_wf _ _ _ h.1) (copyWork_inv _ _ _ hp (h.of_getElem? he))
  · exact complete_inv _ _ n e h

theorem refuseAccess_inv {s : State} (t : Transaction) (h : s.Inv) : (refuseAccess t s).Inv := by
  unfold refuseAccess
  split <;> exact h.of_eq rfl rfl rfl

theorem readByteMove_inv {s : State} (a : Word) (h : s.Inv) : (readByteMove a s).Inv := by
  unfold readByteMove
  split <;> exact h.of_eq rfl rfl rfl

theorem writeByteMove_inv {s : State} (a : Word) (v : Byte) (h : s.Inv) : (writeByteMove a v s).Inv := by
  refine ⟨Memory.write_wf s.mem a.toNat v a.isLt h.1, fun d hd => ?_⟩
  obtain ⟨x, hx, rfl⟩ := List.mem_map.mp hd
  exact (h.2 x hx).hitBy _

theorem Engine.reset_inv (p : Params) (base : Word) : (Engine.reset base).Inv p := Engine.inv_of_idle rfl rfl

theorem resetInst_inv {s : State} (n : Nat) (e : Engine) (h : s.Inv) : (resetInst n e s).Inv := by
  have hset := h.set_insts n (Engine.reset_inv s.params e.base)
  unfold resetInst
  dsimp only
  split
  · exact ⟨drawBytes_wf _ _ _ _ _ h.1, hset⟩
  · exact ⟨h.1, hset⟩

/-- Every effect keeps the invariant of the machine. -/
theorem Effect.inv {s t : State} (h : Effect s t) (hs : s.Inv) : t.Inv := by
  cases h with
  | stay => exact hs
  | read => exact hs.of_eq rfl rfl rfl
  | writeIrqEn b he =>
    have hinv := hs.of_getElem? he
    exact hs.setInst _ hinv
  | start => exact acceptStart_inv _ _ hs
  | clearDone he => exact hs.setInst _ (hs.of_getElem? he).doneCleared
  | configure he hb hcfg =>
    obtain ⟨_, _, _, _, _, _, _, rfl⟩ := hcfg
    exact hs.setInst _ (Engine.inv_of_idle hb ((hs.of_getElem? he).phase_of_not_busy hb))
  | refuse x => exact refuseAccess_inv x hs
  | readByte a => exact readByteMove_inv a hs
  | writeByte a v => exact writeByteMove_inv a v hs
  | validate he hfmt hp => exact validateStep_inv hs he hfmt hp
  | rows he _ hp => exact rowsStep_inv _ hs he hp
  | border he _ hp => exact borderStep_inv _ hs he hp
  | unsupported => exact validateUnsupported_inv _ _ hs
  | reset => exact resetInst_inv _ _ hs

/-- Settles O58: every effect of a step keeps the invariant, and taking a move off the agenda touches nothing it
speaks of. -/
theorem stepKeepsTheInvariant : Obligations.StepKeepsTheInvariant := by
  unfold Obligations.StepKeepsTheInvariant
  intro s t hs h
  exact (step_effect h).inv (hs.of_eq rfl rfl rfl)

/-- Settles O57: the data space of the launch state lists no byte, and its one instance is a reset one. -/
theorem resetMeetsTheInvariant : Obligations.ResetMeetsTheInvariant := by
  unfold Obligations.ResetMeetsTheInvariant
  refine ⟨Memory.wf_nil, fun e he => ?_⟩
  rw [List.mem_singleton.mp he]
  exact Engine.reset_inv _ _

end Sys2Proof.Machine

/-! ## What a running job's configuration keeps

O59: an instance that is BUSY before and after an `Effect` has the same configuration registers (R42). -/

namespace Sys2Proof.Machine

/-- The configuration registers (R27 to R32) and the window base (R23) of `e'` are those of `e`. -/
structure Engine.SameConfig (e e' : Engine) : Prop where
  pattern : e'.pattern = e.pattern
  format  : e'.format = e.format
  frame   : e'.frame = e.frame
  base    : e'.base = e.base

theorem Engine.SameConfig.refl (e : Engine) : e.SameConfig e := ⟨rfl, rfl, rfl, rfl⟩

theorem Engine.SameJob.sameConfig {d e : Engine} (h : d.SameJob e) : e.SameConfig d := by
  obtain ⟨_, _, _, _, _, rfl⟩ := h
  exact ⟨rfl, rfl, rfl, rfl⟩

theorem Engine.sameConfig_noteClash (p : Params) (fp : Footprint) (e : Engine) : e.SameConfig (e.noteClash p fp) := by
  unfold Engine.noteClash
  split <;> exact ⟨rfl, rfl, rfl, rfl⟩

theorem Engine.sameConfig_hitBy (p : Params) (a : Nat) (e : Engine) : e.SameConfig (e.hitBy p a) := by
  unfold Engine.hitBy
  split <;> exact ⟨rfl, rfl, rfl, rfl⟩

/-- `e'` runs the job of `e`, if both run one: nothing is said of an instance that is not BUSY before or after. -/
def Engine.HoldsConfig (e e' : Engine) : Prop := e.busy = true → e'.busy = true → e.SameConfig e'

theorem Engine.holdsConfig_of_idle_before {e : Engine} (e' : Engine) (h : e.busy = false) :
    e.HoldsConfig e' := fun hb _ =>
  absurd hb (by simp [h])

theorem Engine.holdsConfig_of_idle_after (e : Engine) {e' : Engine} (h : e'.busy = false) :
    e.HoldsConfig e' := fun _ hb =>
  absurd hb (by simp [h])

/-- Every instance of `t` holds the configuration of the same instance of `s`. -/
def State.HoldsConfig (s t : State) : Prop :=
  ∀ (n : Nat) (e e' : Engine), s.insts[n]? = some e → t.insts[n]? = some e' → e.HoldsConfig e'

theorem State.HoldsConfig.of_insts_eq {s t : State} (h : t.insts = s.insts) : s.HoldsConfig t := by
  intro n e e' he he' _ _
  obtain rfl : e = e' := by simpa [h, he] using he'
  exact .refl e

/-- When one instance alone is replaced, that instance alone is to be looked at. -/
theorem State.HoldsConfig.of_set {s t : State} {n : Nat} {e d : Engine} (h : t.insts = s.insts.set n d)
    (he : s.insts[n]? = some e) (hd : e.HoldsConfig d) : s.HoldsConfig t := by
  intro m x x' hx hx'
  rw [h] at hx'
  by_cases hm : m = n
  · subst hm
    obtain ⟨hlt, -⟩ := List.getElem?_eq_some_iff.mp he
    obtain rfl : e = x := by simpa [he] using hx
    obtain rfl : d = x' := by simpa [hlt] using hx'
    exact hd
  · rw [List.getElem?_set_ne (Ne.symm hm), hx] at hx'
    obtain rfl : x = x' := by simpa using hx'
    exact fun _ _ => .refl x

/-- The instance a START is accepted on was not BUSY; the others note an overlap at most (R160, R70). -/
theorem acceptStart_holdsConfig {s : State} {n : Nat} {e : Engine} (d : Engine) (he : s.insts[n]? = some e)
    (hb : e.busy = false) : s.HoldsConfig (acceptStart n d s) := by
  intro m x x' hx hx'
  by_cases hm : m = n
  · subst hm
    obtain rfl : e = x := by simpa [he] using hx
    exact Engine.holdsConfig_of_idle_before x' hb
  · rw [acceptStart_other d s hm, hx] at hx'
    obtain rfl : x.noteClash s.params (d.footprint s.params) = x' := by simpa using hx'
    exact fun _ _ => Engine.sameConfig_noteClash _ _ x

theorem complete_holdsConfig {s : State} {n : Nat} {e : Engine} (code : ResultCode) (fmt : Option Format)
    (he : s.insts[n]? = some e) : s.HoldsConfig (complete code fmt n e s) := by
  rw [complete_eq]
  exact .of_set rfl he (Engine.holdsConfig_of_idle_after e rfl)

theorem commit_holdsConfig {s : State} {n : Nat} {e : Engine} {w : Work} (he : s.insts[n]? = some e)
    (hw : w.eng.SameJob e) : s.HoldsConfig (s.commit n w) :=
  .of_set (s.commit_insts n w) he fun _ _ => hw.sameConfig

theorem validateStep_holdsConfig {s : State} {n : Nat} {e : Engine} (fmt : Format) (pat : Pattern)
    (he : s.insts[n]? = some e) : s.HoldsConfig (validateStep fmt n pat e s) := by
  unfold validateStep
  split_ifs
  · exact complete_holdsConfig _ _ he
  · exact .of_set rfl he fun _ _ => ⟨rfl, rfl, rfl, rfl⟩
  · exact .of_set rfl he fun _ _ => ⟨rfl, rfl, rfl, rfl⟩

theorem validateUnsupported_holdsConfig {s : State} {n : Nat} {e : Engine} (he : s.insts[n]? = some e) :
    s.HoldsConfig (validateUnsupported n e s) := by
  unfold validateUnsupported
  split_ifs <;> exact complete_holdsConfig _ _ he

theorem borderStep_holdsConfig {s : State} {n : Nat} {e : Engine} (fmt : Format) (he : s.insts[n]? = some e) :
    s.HoldsConfig (borderStep fmt n e s) := by
  unfold borderStep
  split
  · exact commit_holdsConfig he (copyWork_sameJob _ _ _)
  · exact complete_holdsConfig _ _ he

theorem refuseAccess_holdsConfig (t : Transaction) (s : State) : s.HoldsConfig (refuseAccess t s) := by
  unfold refuseAccess
  split <;> exact .of_insts_eq rfl

theorem readByteMove_holdsConfig (a : Word) (s : State) : s.HoldsConfig (readByteMove a s) := by
  unfold readByteMove
  split <;> exact .of_insts_eq rfl

theorem writeByteMove_holdsConfig (a : Word) (v : Byte) (s : State) : s.HoldsConfig (writeByteMove a v s) := by
  intro n e e' he he' _ _
  obtain rfl : e.hitBy s.params a.toNat = e' := by simpa [writeByteMove, he] using he'
  exact Engine.sameConfig_hitBy _ _ e

theorem resetInst_holdsConfig {s : State} {n : Nat} {e : Engine} (he : s.insts[n]? = some e) :
    s.HoldsConfig (resetInst n e s) := by
  have hidle : e.HoldsConfig (Engine.reset e.base) := Engine.holdsConfig_of_idle_after e rfl
  unfold resetInst
  dsimp only
  split <;> exact .of_set rfl he hidle

/-- No effect changes the configuration of an instance that stays BUSY. -/
theorem Effect.holdsConfig {s t : State} (h : Effect s t) : s.HoldsConfig t := by
  cases h with
  | stay | read => exact .of_insts_eq rfl
  | writeIrqEn b he => exact .of_set rfl he fun _ _ => ⟨rfl, rfl, rfl, rfl⟩
  | start b he hb => exact acceptStart_holdsConfig _ he hb
  | clearDone he => exact .of_set rfl he fun _ _ => ⟨rfl, rfl, rfl, rfl⟩
  | configure he hb => exact .of_set rfl he (Engine.holdsConfig_of_idle_before _ hb)
  | refuse x => exact refuseAccess_holdsConfig x s
  | readByte a => exact readByteMove_holdsConfig a s
  | writeByte a v => exact writeByteMove_holdsConfig a v s
  | validate he => exact validateStep_holdsConfig _ _ he
  | rows he _ hp => exact commit_holdsConfig he (groupWork_sameJob _ _ _ _ hp)
  | border he => exact borderStep_holdsConfig _ he
  | unsupported he => exact validateUnsupported_holdsConfig he
  | reset he => exact resetInst_holdsConfig he

/-- Settles O59: the effects that write a configuration register are those of an instance that is not BUSY before the
step or not after it. -/
theorem configurationIsFixedWhileBusy : Obligations.ConfigurationIsFixedWhileBusy := by
  unfold Obligations.ConfigurationIsFixedWhileBusy
  intro s t n e e' h he he' hb hb'
  obtain ⟨hpattern, hformat, hframe, hbase⟩ := (step_effect h).holdsConfig n e e' he he' hb hb'
  exact ⟨hpattern, hformat, hframe, hbase⟩

end Sys2Proof.Machine

/-! ## Register windows

O51: which instance an address reaches (R23, R180). -/

namespace Sys2Proof.Machine

theorem windowOffset_eq_none {base addr : Word} (h : 0x100 ≤ (addr - base).toNat) : windowOffset base addr = none :=
  if_neg (by omega)

/-- An offset from a window's base is found as that offset, modulo 2^32 (assumption 9). -/
theorem windowOffset_base_add (base : Word) (o : BitVec 8) :
    windowOffset base (base + o.setWidth 32) = some o := by
  have hsub : base + o.setWidth 32 - base = o.setWidth 32 := by simp
  have hlt : (o.setWidth 32).toNat < 0x100 := by simp; omega
  rw [windowOffset, hsub, if_pos hlt]
  simp

/-- The first instance of a list whose window holds the address answers (R180). -/
theorem routeFrom_eq_some {addr : Word} {o : BitVec 8} {l : List Engine} {n : Nat} {e : Engine} (i : Nat)
    (he : l[n]? = some e) (ho : windowOffset e.base addr = some o)
    (hnone : ∀ (m : Nat) (d : Engine), m < n → l[m]? = some d → windowOffset d.base addr = none) :
    routeFrom addr i l = some (i + n, o) := by
  induction l generalizing i n with
  | nil => simp at he
  | cons d rest ih =>
    cases n with
    | zero =>
      obtain rfl : d = e := by simpa using he
      simp [routeFrom, ho]
    | succ n =>
      have hd : windowOffset d.base addr = none := hnone 0 d (by omega) rfl
      have hrest := ih (i + 1) (n := n) (by simpa using he)
        fun m x hm hx => hnone (m + 1) x (by omega) (by simpa using hx)
      simp only [routeFrom, hd, hrest]
      rw [Nat.add_assoc, Nat.add_comm 1 n]

/-- An address outside the window of every instance of a list reaches none of them. -/
theorem routeFrom_eq_none {addr : Word} {l : List Engine} (i : Nat)
    (h : ∀ d ∈ l, windowOffset d.base addr = none) : routeFrom addr i l = none := by
  induction l generalizing i with
  | nil => rfl
  | cons d rest ih =>
    simp only [routeFrom, h d (by simp)]
    exact ih (i + 1) fun x hx => h x (by simp [hx])

/-- A pending move is the one a step makes. -/
theorem step_of_agenda {s : State} {mv : Move} {rest : List Move} (h : s.agenda = mv :: rest) :
    step s = performMove mv (s.setAgenda rest) := by
  unfold step
  split
  · rename_i ha
    rw [h] at ha; cases ha
  · rename_i ha
    rw [h] at ha; cases ha; rfl

theorem transactMove_of_no_window {s : State} {t : Transaction} (h : routeFrom t.addr 0 s.insts = none) :
    transactMove t s = .fault .noWindow := by
  simp [transactMove, State.route, h]

/-- Settles O51: the lowest window that holds the address answers, and with none the transaction stops. -/
theorem windowsRouteTransactions : Obligations.WindowsRouteTransactions := by
  unfold Obligations.WindowsRouteTransactions
  refine ⟨fun s n e o he hbelow => ?_, fun s t rest hagenda hout => ?_⟩
  · have hroute := routeFrom_eq_some 0 he (windowOffset_base_add e.base o)
      fun m d hm hd => windowOffset_eq_none (hbelow m d hm hd)
    rwa [Nat.zero_add] at hroute
  · have hroute : routeFrom t.addr 0 s.insts = none :=
      routeFrom_eq_none 0 fun d hd => windowOffset_eq_none (hout d hd)
    exact ⟨hroute, (step_of_agenda hagenda).trans (transactMove_of_no_window hroute)⟩

end Sys2Proof.Machine

/-! ## Registers, flags and tile table

O7, O8, O13, O19, O55: what single register operations and the launch state show. -/

namespace Sys2Proof.Machine

/-! ### Words and flags -/

/-- STATUS as a number: DONE at bit 1, BUSY at bit 0 (R25). -/
theorem Engine.statusWord_eq (e : Engine) :
    e.statusWord = (if e.done = true then 2 else 0) + (if e.busy = true then 1 else 0) := by
  unfold Engine.statusWord
  cases e.done <;> cases e.busy <;> rfl

/-- BUSY and DONE never hold at once, so STATUS never reads 3 (R25). -/
theorem Engine.Inv.statusWord_ne_three {p : Params} {e : Engine} (h : e.Inv p) : e.statusWord ≠ 3 := by
  obtain ⟨-, hdone, -⟩ := h
  rw [e.statusWord_eq]
  cases hb : e.busy with
  | true => simp [hdone hb]
  | false => cases e.done <;> decide

theorem Engine.irq_of_not_done {e : Engine} (h : e.done = false) : e.irq = false := by simp [Engine.irq, h]

/-- What an instance list holds at the place just set. -/
theorem State.setInst_getElem?_self {s : State} {n : Nat} {d e' : Engine} (e : Engine) (hd : s.insts[n]? = some d)
    (h : (s.setInst n e).insts[n]? = some e') : e' = e := by
  obtain ⟨hlt, -⟩ := List.getElem?_eq_some_iff.mp hd
  simpa [hlt, eq_comm] using h

/-! ### Writes of CTRL and STATUS -/

/-- The write of CTRL that is an accepted START (R160, R182). -/
theorem execWrCtrl_start {s : State} {n : Nat} {e : Engine} {w : Word} (he : s.insts[n]? = some e)
    (hw : w.getLsbD 0 = true) (hb : e.busy = false) :
    execWrCtrl n w s = .next (acceptStart n { e with irqEn := w.getLsbD 1 } s) := by
  rw [execWrCtrl, withInst_some _ he, hw, hb]; rfl

/-- Any other write of CTRL stores IRQ_EN alone (R182). -/
theorem execWrCtrl_irqEn {s : State} {n : Nat} {e : Engine} {w : Word} (he : s.insts[n]? = some e)
    (h : ¬(w.getLsbD 0 = true ∧ e.busy = false)) :
    execWrCtrl n w s = .next (s.setInst n { e with irqEn := w.getLsbD 1 }) := by
  rw [execWrCtrl, withInst_some _ he]
  exact congrArg _ (if_neg (by simpa using h))

/-- A write of STATUS with WDATA[1] = 1 clears DONE (R184). -/
theorem execWrStatus_doneCleared {s : State} {n : Nat} {e : Engine} {w : Word} (he : s.insts[n]? = some e)
    (hw : w.getLsbD 1 = true) : execWrStatus n w s = .next (s.setInst n e.doneCleared) := by
  rw [execWrStatus, writeReg_some _ he, if_pos hw]

/-- After a write of STATUS that clears DONE the interrupt output is low (R184, R219). -/
theorem irq_after_wrStatus {s t : State} {n : Nat} {e e' : Engine} {w : Word} (he : s.insts[n]? = some e)
    (he' : t.insts[n]? = some e') (h : exec (.wrStatus n w) s = .next t) (hw : w.getLsbD 1 = true) :
    e'.irq = false := by
  obtain rfl := Host.Outcome.next.inj ((execWrStatus_doneCleared he hw).symm.trans h)
  rw [State.setInst_getElem?_self _ he he']
  exact Engine.irq_of_not_done rfl

/-- After a write of CTRL the interrupt output is low, if it was an accepted START, and DONE and the new IRQ_EN
otherwise (R182, R219). -/
theorem irq_after_wrCtrl {s t : State} {n : Nat} {e e' : Engine} {w : Word} (he : s.insts[n]? = some e)
    (he' : t.insts[n]? = some e') (h : exec (.wrCtrl n w) s = .next t) :
    e'.irq = if w.getLsbD 0 = true ∧ e.busy = false then false else e.done && w.getLsbD 1 := by
  split_ifs with hstart
  · obtain rfl := Host.Outcome.next.inj ((execWrCtrl_start he hstart.1 hstart.2).symm.trans h)
    rw [acceptStart_self _ he] at he'
    obtain rfl := Option.some.inj he'
    exact Engine.irq_of_not_done rfl
  · obtain rfl := Host.Outcome.next.inj ((execWrCtrl_irqEn he hstart).symm.trans h)
    rw [State.setInst_getElem?_self _ he he']
    rfl

/-! ### The obligations -/

/-- Settles O7: a read answers with the register's word, and the word of STATUS is 3 only with BUSY and DONE both
set. -/
theorem statusAndResultReads : Obligations.StatusAndResultReads := by
  unfold Obligations.StatusAndResultReads
  intro s n e he
  refine ⟨⟨e.statusWord, readReg_some _ he, e.statusWord_eq, fun hinv => hinv.statusWord_ne_three⟩,
    ⟨e.code.word, readReg_some _ he, ?_, ?_, ?_⟩⟩
  · intro hc; rw [hc]; rfl
  · intro hc; rw [hc]; rfl
  · intro hc; rw [hc]; rfl

/-- Settles O8: all six writes are `writeConfig`, which stores when the instance is not BUSY. -/
theorem configWritesStoreWhenIdle : Obligations.ConfigWritesStoreWhenIdle := by
  unfold Obligations.ConfigWritesStoreWhenIdle
  intro s n e w he hb
  have hstore (upd : Engine → Engine) := writeConfig_idle upd he hb
  exact ⟨⟨cfgPattern w, code_patternOfCode _, hstore _⟩, hstore _, hstore _, hstore _, hstore _, hstore _⟩

/-- Settles O13: the output follows DONE and IRQ_EN through every event that writes one of them. -/
theorem interruptOutputIsDoneAndEnable : Obligations.InterruptOutputIsDoneAndEnable := by
  unfold Obligations.InterruptOutputIsDoneAndEnable
  exact ⟨fun _ => rfl, fun _ _ => Bool.true_and _, fun _ => Engine.irq_of_not_done rfl,
    fun _ _ _ _ _ _ he he' => ⟨irq_after_wrStatus he he', irq_after_wrCtrl he he'⟩⟩

/-- Swapping R and B flips bit 0 of the pattern's code (R83). -/
theorem swapRB_code (p : Pattern) : (swapRB p).code = p.code ^^^ 1 := by
  cases p <;> rfl

theorem swapRB_swapRB (p : Pattern) : swapRB (swapRB p) = p := by
  cases p <;> rfl

/-- Settles O19: the rows of R83's table, one by one. -/
theorem tileTableAndChannelSwap : Obligations.TileTableAndChannelSwap := by
  unfold Obligations.TileTableAndChannelSwap
  exact ⟨rfl, rfl, rfl, rfl, fun p => ⟨swapRB_code p, swapRB_swapRB p⟩, fun _ _ => rfl⟩

/-- Settles O55: a reset instance reads 0 everywhere, and the launch state is made of one such. -/
theorem resetStateIsTheLaunchState : Obligations.ResetStateIsTheLaunchState := by
  unfold Obligations.ResetStateIsTheLaunchState
  refine ⟨fun base => ?_, rfl, rfl, rfl⟩
  have hirq : (Engine.reset base).irq = false := Engine.irq_of_not_done rfl
  have hstatus : (Engine.reset base).statusWord = 0 := Engine.statusWord_eq _
  have hcfg : (Engine.reset base).cfgWord = 0 := (by decide : packCfg 0 .rggb = 0)
  exact ⟨rfl, hstatus, rfl, hcfg, rfl, rfl, rfl, rfl, rfl, hirq, rfl, rfl⟩

end Sys2Proof.Machine

/-! ## Where a job writes

O45: no step of a job writes a byte outside DstFP (R56, R58). The parts are the frame that VALIDATE lets pass, the
stores of a pair, the row copies of BORDER and the bytes a completion draws. -/

namespace Sys2Proof.Machine

/-! ### The frame of a job that VALIDATE lets pass -/

/-- What the four predicates of R162 leave of a frame when none of them holds. -/
structure FrameFits (p : Params) (fmt : Format) (f : Frame) : Prop where
  evenW  : f.W % 2 = 0
  evenH  : f.H % 2 = 0
  twoW   : 2 ≤ f.W
  twoH   : 2 ≤ f.H
  stride : f.W ≤ f.P
  dst    : f.D + formatSize fmt f ≤ 2 ^ 32
  raw    : f.A + (f.H - 1) * f.P + rawCols p f ≤ 2 ^ 32

theorem frameFits_of_violations_empty {p : Params} {fmt : Format} {f : Frame}
    (h : violations p fmt f = FaultSet.empty) : FrameFits p fmt f := by
  have hgeo : geometryViolated f = false := congrArg FaultSet.geometry h
  have hstride : strideViolated f = false := congrArg FaultSet.stride h
  have hwrap : wrapViolated p fmt f = false := by
    have : (!geometryViolated f && wrapViolated p fmt f) = false := congrArg FaultSet.wrap h
    simpa [hgeo] using this
  simp only [geometryViolated, strideViolated, wrapViolated, decide_eq_false_iff_not, not_or, not_lt]
    at hgeo hstride hwrap
  obtain ⟨hW, hH, hW0, hH0⟩ := hgeo
  exact ⟨by omega, by omega, by omega, by omega, hstride, hwrap.1, hwrap.2⟩

/-- The instance stands before a pair of a job that VALIDATE lets pass as `fmt` (R162, R165). -/
structure Engine.RowReady (p : Params) (fmt : Format) (e : Engine) : Prop where
  fits : FrameFits p fmt e.frame
  rows : e.rowsValid = true

theorem Engine.RowReady.pairInFrame {p : Params} {fmt : Format} {e : Engine} (h : e.RowReady p fmt) :
    PairInFrame e.frame e.k.toNat e.c.toNat := by
  obtain ⟨hk, hc, hce, -⟩ := e.rowsValid_iff.mp h.rows
  exact ⟨by simp only [Engine.frame_H]; omega, hc, hce, h.fits.evenW, h.fits.evenH⟩

/-- The format of a job that has passed VALIDATE, and its frame (R161). -/
theorem Engine.frameFits_of_jobValid {p : Params} {e : Engine} (h : e.jobValid p = true) :
    ∃ fmt, formatOfCode e.format = some fmt ∧ FrameFits p fmt e.frame := by
  unfold Engine.jobValid at h
  split at h
  · rename_i fmt hfmt
    simp only [Bool.and_eq_true, decide_eq_true_eq] at h
    exact ⟨fmt, hfmt, frameFits_of_violations_empty h.1.2⟩
  · cases h

theorem Engine.Inv.rowReady {p : Params} {e : Engine} (h : e.Inv p) (hp : e.phase = .rows) :
    ∃ fmt, formatOfCode e.format = some fmt ∧ e.RowReady p fmt := by
  obtain ⟨-, -, hjob, hrows⟩ := h
  obtain ⟨fmt, hfmt, hfits⟩ := Engine.frameFits_of_jobValid (hjob (.inl hp))
  exact ⟨fmt, hfmt, hfits, hrows hp⟩

/-! ### The stores of ROWS -/

/-- The stores of a pair lie in DstFP (R56, R58). -/
theorem pairCells_in_footprint {p q : Params} {fmt fmt' : Format} {w : Work} (h : w.eng.RowReady q fmt') :
    ∀ x ∈ pairCells p fmt { w with eng := w.eng.advanced },
      w.eng.dstAddr.toNat ≤ x.1 ∧ x.1 < w.eng.dstAddr.toNat + formatSize fmt w.eng.frame := by
  intro x hx
  simp only [pairCells, Engine.advanced_frame, Engine.advanced_k, Engine.advanced_c] at hx
  exact sink_in_footprint h.pairInFrame _ _ x hx

/-- Whether or not all its accesses are admitted, a pair leaves every byte outside DstFP. -/
theorem read_pairWork_outside {p q : Params} {fmt fmt' : Format} {w : Work} {a : Nat} (h : w.eng.RowReady q fmt')
    (hm : w.mem.wf) (ha : a < w.eng.dstAddr.toNat ∨ w.eng.dstAddr.toNat + formatSize fmt w.eng.frame ≤ a) :
    (pairWork p fmt w).mem.read a = w.mem.read a := by
  have hout : ∀ x ∈ pairCells p fmt { w with eng := w.eng.advanced }, x.1 ≠ a := fun x hx => by
    have := pairCells_in_footprint h x hx
    omega
  rcases pairWork_cases p fmt w with ⟨-, hw, h'⟩ | ⟨-, before, x, after, hcells, hw, -, h'⟩ | ⟨-, h'⟩ <;> rw [h']
  · exact read_writeList_of_not_mem _ _ _ (fun x hx => canWrite_lt (hw x hx)) hm hout
  · exact read_writeList_of_not_mem _ _ _ (fun y hy => canWrite_lt (hw y hy)) hm
      fun y hy => hout y (by simp [hcells, hy])

/-- A group does not either (R173). -/
theorem read_groupWork_outside {p : Params} {fmt : Format} {w : Work} {a : Nat} (g : Nat) (hp : w.eng.phase = .rows)
    (h : w.eng.Inv p) (hm : w.mem.wf)
    (ha : a < w.eng.dstAddr.toNat ∨ w.eng.dstAddr.toNat + formatSize fmt w.eng.frame ≤ a) :
    (groupWork p fmt g w).mem.read a = w.mem.read a := by
  refine (groupWork_induct (P := fun v => (v.eng.Inv p ∧ v.mem.wf ∧ v.eng.frame = w.eng.frame) ∧
    v.mem.read a = w.mem.read a) (fun v hv hvp => ?_) g w ⟨⟨h, hm, rfl⟩, rfl⟩ hp).2
  obtain ⟨⟨hinv, hwf, hf⟩, hread⟩ := hv
  obtain ⟨fmt', -, hready⟩ := hinv.rowReady hvp
  have hD : v.eng.dstAddr.toNat = w.eng.dstAddr.toNat := congrArg Frame.D hf
  exact ⟨⟨pairWork_inv p fmt v hvp hinv, pairWork_wf p fmt v hwf, (pairWork_sameJob p fmt v).frame.trans hf⟩,
    (read_pairWork_outside hready hwf (by rwa [hD, hf])).trans hread⟩

/-! ### The row copies of BORDER -/

/-- The planes of BORDER, for every format: the last row of a plane of H rows that lies in DstFP, or, under COPY_PREV,
the last row of the chroma plane that ends DstFP (R58, R131, R152). -/
theorem borderPlanes_cases {p : Params} {fmt : Format} {f : Frame} {r : RowCopy} (hr : r ∈ borderPlanes p fmt f) :
    (∃ base pitch, r = lastRowCopy f base pitch ∧ f.D ≤ base ∧ base + pitch * f.H ≤ f.D + formatSize fmt f) ∨
    (4 ≤ f.H ∧ r = { base := f.D + f.W * f.H, pitch := f.W, src := f.H / 2 - 2, dst := f.H / 2 - 1 } ∧
      f.D + f.W * f.H + f.W * (f.H / 2) = f.D + formatSize fmt f) := by
  have hbpp : ∀ b, f.W * b * f.H = b * (f.W * f.H) := fun b => by ring
  have hsize : ∀ b, b * f.W * f.H = b * (f.W * f.H) := fun b => by ring
  have hhalf : 2 * (f.W / 2) * f.H = 2 * (f.W / 2 * f.H) := by ring
  cases fmt
  case nv12 | nv21 =>
    rcases List.mem_cons.mp hr with rfl | hr
    · exact .inl ⟨_, _, rfl, le_rfl, by simp only [formatSize]; omega⟩
    · split at hr
      · rename_i hc
        exact .inr ⟨hc.2, List.mem_singleton.mp hr, by simp only [formatSize]; omega⟩
      · cases hr
  case i422 | i444 =>
    simp only [borderPlanes, List.mem_cons, List.not_mem_nil, or_false] at hr
    rcases hr with rfl | rfl | rfl <;>
      exact .inl ⟨_, _, rfl, by omega, by simp only [formatSize, hsize, hhalf]; omega⟩
  all_goals
    rw [List.mem_singleton.mp hr]
    exact .inl ⟨_, _, rfl, le_rfl, by simp only [formatSize, hbpp, hsize]; omega⟩

/-- A plane's copy takes a row into the next one; in a frame of less than two rows, into itself. -/
theorem borderPlanes_rows {p : Params} {fmt : Format} {f : Frame} {r : RowCopy} (hr : r ∈ borderPlanes p fmt f) :
    r.base + r.dst * r.pitch = r.base + r.src * r.pitch + r.pitch ∨
    r.base + r.dst * r.pitch = r.base + r.src * r.pitch := by
  have hrow : r.dst = r.src + 1 ∨ r.dst = r.src := by
    rcases borderPlanes_cases hr with ⟨base, pitch, rfl, -, -⟩ | ⟨hH, rfl, -⟩
    · simp only [lastRowCopy]; omega
    · dsimp only; omega
  rcases hrow with h | h
  · exact .inl (by rw [h, Nat.succ_mul, Nat.add_assoc])
  · exact .inr (by rw [h])

/-- The rows of a plane up to the copied one lie in DstFP (R58). -/
theorem borderPlanes_in_footprint {p : Params} {fmt : Format} {f : Frame} {r : RowCopy} (hH : 1 ≤ f.H)
    (hr : r ∈ borderPlanes p fmt f) :
    f.D ≤ r.base ∧ r.base + (r.dst * r.pitch + r.pitch) ≤ f.D + formatSize fmt f := by
  have hrows : ∀ n w, 1 ≤ n → (n - 1) * w + w = w * n := fun n w hn => by
    rw [← Nat.succ_mul, Nat.succ_eq_add_one, Nat.sub_add_cancel hn, Nat.mul_comm]
  rcases borderPlanes_cases hr with ⟨base, pitch, rfl, hbase, hend⟩ | ⟨hH', rfl, hend⟩
  · exact ⟨hbase, by simp only [lastRowCopy, hrows _ _ hH]; exact hend⟩
  · exact ⟨by simp only; omega, by simp only [hrows (f.H / 2) _ (by omega)]; omega⟩

/-- Whether or not all its accesses are admitted, a row copy leaves every byte outside DstFP (R56). -/
theorem read_copyWork_outside {p q : Params} {fmt : Format} {r : RowCopy} {w : Work} {a : Nat}
    (hr : r ∈ borderPlanes q fmt w.eng.frame) (hH : 1 ≤ w.eng.height.toNat) (hm : w.mem.wf)
    (ha : a < w.eng.dstAddr.toNat ∨ w.eng.dstAddr.toNat + formatSize fmt w.eng.frame ≤ a) :
    (copyWork p r w).mem.read a = w.mem.read a := by
  obtain ⟨hbase, hend⟩ := borderPlanes_in_footprint hH hr
  rw [Engine.frame_D] at hbase hend
  have hcopy : (copyRow p r w.mem).1.read a = w.mem.read a :=
    read_copyBytes_outside _ _ _ _ _ _ _ hm (by omega)
  rcases copyWork_cases p r w with ⟨-, h⟩ | ⟨-, h⟩ <;> rw [h] <;> exact hcopy

/-! ### The bytes a completion draws -/

/-- A job with a race, or with an overlap that its code opens, draws the open bytes of DstFP (R65, R70). -/
theorem settleBytes_of_open {code : ResultCode} {fp : Footprint} {e : Engine} {s : State}
    (h : ¬(e.raced = false ∧ e.openClash code = [])) :
    settleBytes code fp e s =
      { s with
        mem := drawBytes (e.openByte code) fp.dstBase s.draws s.mem fp.dstSize, draws := s.draws + fp.dstSize } := by
  unfold settleBytes
  rw [if_pos (by cases hr : e.raced <;> simp_all)]
  rfl

/-- Every byte after a completion: its own draw if it lies in DstFP and is open, and what it was otherwise. -/
theorem read_complete (code : ResultCode) (fmt : Format) (n : Nat) (e : Engine) {s : State} (hm : s.mem.wf) (a : Nat) :
    (complete code (some fmt) n e s).mem.read a =
      if e.dstAddr.toNat ≤ a ∧ a < e.dstAddr.toNat + formatSize fmt e.frame ∧ e.openByte code a = true ∧ a < 2 ^ 32 then
        Config.draw8 (s.draws + (a - e.dstAddr.toNat))
      else s.mem.read a := by
  rw [complete_eq]
  by_cases h : e.raced = false ∧ e.openClash code = []
  · obtain ⟨hr, hc⟩ := h
    rw [settleBytes_of_clean hr hc, if_neg (by simp [Engine.openByte, hr, hc])]
  · rw [settleBytes_of_open h]
    exact read_drawBytes _ _ _ _ _ _ hm

/-! ### Every step of a job -/

/-- From `s` to `t`, no byte outside the `size` bytes from `D` changes, and no instance other than `n`. -/
structure State.Confined (n D size : Nat) (s t : State) : Prop where
  outside : ∀ a, (a < D ∨ D + size ≤ a) → t.mem.read a = s.mem.read a
  others  : ∀ m, m ≠ n → t.insts[m]? = s.insts[m]?

theorem State.Confined.refl (n D size : Nat) (s : State) : s.Confined n D size s := ⟨fun _ _ => rfl, fun _ _ => rfl⟩

/-- When one instance alone is replaced, the data space alone is to be looked at. -/
theorem State.Confined.of_set {n D size : Nat} {s t : State} {d : Engine} (hi : t.insts = s.insts.set n d)
    (hm : ∀ a, (a < D ∨ D + size ≤ a) → t.mem.read a = s.mem.read a) : s.Confined n D size t :=
  ⟨hm, fun m hne => by rw [hi, List.getElem?_set_ne (Ne.symm hne)]⟩

section
variable {s : State} {n : Nat} {e : Engine} {fmt : Format}

theorem complete_confined (code : ResultCode) (hm : s.mem.wf) :
    s.Confined n e.dstAddr.toNat (formatSize fmt e.frame) (complete code (some fmt) n e s) :=
  .of_set (by rw [complete_eq]) fun a ha => by rw [read_complete _ _ _ _ hm, if_neg (by omega)]

theorem validateStep_confined (pat : Pattern) (hm : s.mem.wf) :
    s.Confined n e.dstAddr.toNat (formatSize fmt e.frame) (validateStep fmt n pat e s) := by
  unfold validateStep
  split_ifs
  · exact complete_confined _ hm
  · exact .of_set rfl fun _ _ => rfl
  · exact .of_set rfl fun _ _ => rfl

theorem rowsStep_confined (hm : s.mem.wf) (hinv : e.Inv s.params) (hp : e.phase = .rows) :
    s.Confined n e.dstAddr.toNat (formatSize fmt e.frame) (rowsStep fmt n e s) :=
  .of_set (s.commit_insts n _) fun a ha => by
    rw [rowsStep, State.commit_mem]
    exact read_groupWork_outside (w := ⟨e, s.mem, s.draws⟩) _ hp hinv hm ha

theorem borderStep_confined (hm : s.mem.wf) (hinv : e.Inv s.params) (hp : e.phase = .border) :
    s.Confined n e.dstAddr.toNat (formatSize fmt e.frame) (borderStep fmt n e s) := by
  obtain ⟨-, -, hjob, -⟩ := hinv
  obtain ⟨_, -, hfits⟩ := Engine.frameFits_of_jobValid (hjob (.inr hp))
  have hH : 1 ≤ e.height.toNat := le_of_lt hfits.twoH
  unfold borderStep
  split
  · rename_i r hr
    refine .of_set (s.commit_insts n _) fun a ha => ?_
    rw [State.commit_mem]
    exact read_copyWork_outside (w := ⟨e, s.mem, s.draws⟩) (List.mem_of_getElem? hr) hH hm ha
  · exact complete_confined _ hm

end

/-- Settles O45: phase by phase, the step of R169 is a completion, an entry to another phase, a group of pairs or a row
copy, and each is confined to DstFP and its own instance. -/
theorem jobWritesOnlyItsDestination : Obligations.JobWritesOnlyItsDestination := by
  unfold Obligations.JobWritesOnlyItsDestination
  intro s t n e fmt hs he _ h
  have hinv := hs.of_getElem? he
  have hconf : s.Confined n e.dstAddr.toNat (formatSize fmt e.frame) t := by
    rw [exec_jobInstr, driverStep_some _ _ he] at h
    cases hp : e.phase <;> rw [hp] at h <;> cases h
    case idle | faulted => exact .refl ..
    case validate => exact validateStep_confined _ hs.1
    case rows => exact rowsStep_confined hs.1 hinv hp
    case border => exact borderStep_confined hs.1 hinv hp
  exact ⟨hconf.outside, hconf.others⟩

end Sys2Proof.Machine

/-! ## Completions, races and overlaps

O14, O41, O42, O53: what a completion leaves in the registers and in the data space (R65, R70, R176). -/

namespace Sys2Proof.Machine

section
variable {s : State} {n : Nat} {e : Engine} {code : ResultCode} {fmt : Format}

/-- A completion with no race and no open overlap writes the registers of its instance alone (R176). -/
theorem complete_of_clean (fmt' : Option Format) (hr : e.raced = false) (hc : e.openClash code = []) :
    complete code fmt' n e s = s.setInst n { e.completed code with raced := false, clash := [] } := by
  rw [complete, settleBytes_of_clean hr hc]

/-- A completion after a host race draws every byte of DstFP, whatever the code (R65, R239). -/
theorem complete_of_raced (hm : s.mem.wf) (hr : e.raced = true) :
    ∃ m : Memory, complete code (some fmt) n e s = { s with
        insts := s.insts.set n { e.completed code with raced := false, clash := [] }, mem := m,
        draws := s.draws + formatSize fmt e.frame } ∧ m.wf ∧
      ∀ a, m.read a =
        if e.dstAddr.toNat ≤ a ∧ a < e.dstAddr.toNat + formatSize fmt e.frame ∧ a < 2 ^ 32 then
          Config.draw8 (s.draws + (a - e.dstAddr.toNat))
        else s.mem.read a := by
  have hmem : (complete code (some fmt) n e s).mem.wf := complete_wf code (some fmt) n e s hm
  refine ⟨_, ?_, hmem, fun a => ?_⟩
  · simp only [complete_eq, settleBytes_of_raced hr]; rfl
  · simp only [read_complete code fmt n e hm a, openByte_of_raced code a hr, true_and]

/-- With an absent reference VALIDATE completes with NULL_POINTER, before any other test (R161, R210). -/
theorem validateStep_of_null (pat : Pattern) (h : e.rawAddr = 0 ∨ e.dstAddr = 0) :
    validateStep fmt n pat e s = complete .nullPointer (some fmt) n e s := by
  rw [validateStep, if_pos (show e.nullRef = true from decide_eq_true h)]

theorem validateUnsupported_of_null (h : e.rawAddr = 0 ∨ e.dstAddr = 0) :
    validateUnsupported n e s = complete .nullPointer none n e s := by
  rw [validateUnsupported, if_pos (show e.nullRef = true from decide_eq_true h)]

/-- After the last plane BORDER completes with SUCCESS (R170). -/
theorem borderStep_of_done (h : (borderPlanes s.params fmt e.frame).length ≤ e.plane) :
    borderStep fmt n e s = complete .success (some fmt) n e s := by
  rw [borderStep, List.getElem?_eq_none h]

/-- With no race and no overlap that completion writes the registers of its instance alone (R176). -/
theorem exec_border_completes (pat : Pattern) (he : s.insts[n]? = some e) (hp : e.phase = .border)
    (hdone : (borderPlanes s.params fmt e.frame).length ≤ e.plane) (hr : e.raced = false) (hc : e.clash = []) :
    exec (jobInstr n pat fmt) s =
      .next (s.setInst n { e.completed .success with raced := false, clash := [] }) := by
  rw [exec_border fmt pat he hp, borderStep_of_done hdone]
  exact congrArg _ (complete_of_clean _ hr hc)

end

/-- Settles O14: VALIDATE tests for an absent reference first, and an error code opens bytes after a race alone. -/
theorem nullReferenceEndsWithNullPointer : Obligations.NullReferenceEndsWithNullPointer := by
  unfold Obligations.NullReferenceEndsWithNullPointer
  intro s n e p he hp hnull
  refine ⟨fun c => ?_, fun fmt hr => ?_, fun fmt hr hm => ?_⟩
  · rw [exec_unsupported c p he, hp]
    dsimp only
    rw [validateUnsupported_of_null hnull, complete_unsupported]
    rfl
  · rw [exec_validate fmt p he hp, validateStep_of_null p hnull, complete_of_clean _ hr rfl]
    rfl
  · rw [exec_validate fmt p he hp, validateStep_of_null p hnull]
    obtain ⟨m, hcomplete, hwf, hread⟩ := complete_of_raced (code := .nullPointer) (n := n) hm hr
    exact ⟨m, congrArg _ hcomplete, hwf, hread⟩

/-- Settles O41: with every plane copied the next step is the completion, which finds no byte to draw. -/
theorem completionReportsSuccess : Obligations.CompletionReportsSuccess := by
  unfold Obligations.CompletionReportsSuccess
  intro s n e p fmt he hp hdone hr hc
  rw [exec_border_completes p he hp hdone hr hc]
  congr 2
  cases e
  cases hr
  cases hc
  rfl

/-- Settles O42: the same step after a race, which draws every byte of DstFP. -/
theorem raceMakesDestinationFree : Obligations.RaceMakesDestinationFree := by
  unfold Obligations.RaceMakesDestinationFree
  intro s n e p fmt he hp hm hdone hr
  rw [exec_border fmt p he hp, borderStep_of_done hdone]
  obtain ⟨m, hcomplete, hwf, hread⟩ := complete_of_raced (code := .success) (n := n) hm hr
  exact ⟨m, congrArg _ hcomplete, hwf, hread⟩

/-! ### Overlapping jobs -/

/-- The START of a job notes the footprint of every BUSY job it overlaps, and each of those notes its own (R70). -/
theorem acceptStart_notes_overlap {s : State} {n m : Nat} {e d : Engine} (hnm : n ≠ m) {e₀ : Engine}
    (he : s.insts[n]? = some e₀) (hd : s.insts[m]? = some d) (hb : d.busy = true)
    (hov : (e.footprint s.params).overlaps (d.footprint s.params) = true) :
    ∃ e' d' : Engine, (acceptStart n e s).insts[n]? = some e' ∧ (acceptStart n e s).insts[m]? = some d' ∧
      d.footprint s.params ∈ e'.clash ∧ e.footprint s.params ∈ d'.clash := by
  have hmeets : d.meets s.params (e.footprint s.params) = true := by simp [Engine.meets, hb, hov]
  refine ⟨_, d.noteClash s.params (e.footprint s.params), acceptStart_self e he, ?_, ?_, ?_⟩
  · rw [acceptStart_other e s hnm.symm, hd]; rfl
  · exact List.mem_map_of_mem (List.mem_filter.mpr ⟨List.mem_of_getElem? hd, hmeets⟩)
  · rw [Engine.noteClash, if_pos hmeets]; exact List.mem_cons_self

/-- A raw read in the DstFP of an overlapping job is a draw (R70). -/
theorem pairSource_of_inDst {w : Work} {fp : Footprint} {a : Nat} (i : Nat) (hfp : fp ∈ w.eng.clash)
    (ha : fp.inDst a = true) : pairSource w i a = Config.draw8 (w.draws + i) :=
  if_pos (List.any_eq_true.mpr ⟨fp, hfp, ha⟩)

/-- A raw read in the DstFP of none is the byte the data space holds (R70). -/
theorem pairSource_of_not_inDst {w : Work} {a : Nat} (i : Nat) (h : ∀ fp ∈ w.eng.clash, fp.inDst a = false) :
    pairSource w i a = w.mem.read a :=
  if_neg fun hany => by
    obtain ⟨fp, hfp, ha⟩ := List.any_eq_true.mp hany
    rw [h fp hfp] at ha; cases ha

/-- At SUCCESS without a race, the open bytes are those in RawFP or DstFP of an overlapping job (R70). -/
theorem openByte_success_iff {e : Engine} {a : Nat} (hr : e.raced = false) :
    e.openByte .success a = true ↔ ∃ fp ∈ e.clash, fp.inRaw a = true ∨ fp.inDst a = true := by
  simp [Engine.openByte, Engine.openClash, Footprint.covers, hr]

/-- Settles O53: START notes the overlap on both sides, a raw read asks the record, and so does the completion. -/
theorem overlappingJobsAreNotedAndDrawn : Obligations.OverlappingJobsAreNotedAndDrawn := by
  unfold Obligations.OverlappingJobsAreNotedAndDrawn
  refine ⟨fun s t n m e d w hnm he hd hidle hb hw h hov => ?_, fun w fp i a => pairSource_of_inDst i,
    fun w i a => pairSource_of_not_inDst i, fun s n e p fmt he hp hm hdone hr => ?_⟩
  · obtain rfl := Host.Outcome.next.inj ((execWrCtrl_start he hw hidle).symm.trans h)
    exact acceptStart_notes_overlap hnm he hd hb hov
  · refine ⟨_, exec_border fmt p he hp, fun a => ?_⟩
    rw [borderStep_of_done hdone, read_complete .success fmt n e hm]
    exact if_congr (by rw [openByte_success_iff hr, and_comm (b := a < 2 ^ 32)]) rfl rfl

end Sys2Proof.Machine

/-! ## Host accesses to the data space

O52: a host read, and the race a host write makes (R65, R239). -/

namespace Sys2Proof.Machine

/-- RawFP, row by row and column by column (R57). -/
theorem Footprint.inRaw_iff {fp : Footprint} {a : Nat} :
    fp.inRaw a = true ↔ ∃ r c, r < fp.rows ∧ c < fp.cols ∧ a = fp.rawBase + r * fp.stride + c := by
  simp only [Footprint.inRaw, List.any_eq_true, List.mem_range, decide_eq_true_eq]
  constructor
  · rintro ⟨r, hr, hle, hlt⟩
    exact ⟨r, a - (fp.rawBase + r * fp.stride), hr, by omega, by omega⟩
  · rintro ⟨r, c, hr, hc, rfl⟩
    exact ⟨r, hr, by omega, by omega⟩

/-- A host write marks an instance exactly if it is BUSY and the byte is in one of its footprints (R65, R239). -/
theorem Engine.hitBy_eq (p : Params) (a : Nat) (e : Engine) :
    e.hitBy p a = { e with raced := e.raced || (e.busy && (e.footprint p).covers a) } := by
  unfold Engine.hitBy
  split
  · rename_i h; rw [h, Bool.or_true]
  · rename_i h; rw [eq_false_of_ne_true h, Bool.or_false]

theorem State.dstBusy_iff {s : State} {a : Nat} :
    s.dstBusy a = true ↔ ∃ e ∈ s.insts, e.busy = true ∧ (e.footprint s.params).inDst a = true := by
  simp [State.dstBusy]

/-- Settles O52: a host read asks the DstFP of every BUSY instance, and a host write every instance's footprints. -/
theorem hostAccessDuringAJob : Obligations.HostAccessDuringAJob := by
  unfold Obligations.HostAccessDuringAJob
  refine ⟨fun s a rest hagenda => ⟨fun hbusy => ?_, fun hfree => ?_⟩, fun s a v rest hagenda hm => ?_⟩
  · have hdst : (s.setAgenda rest).dstBusy a.toNat = true := State.dstBusy_iff.mpr hbusy
    rw [step_of_agenda hagenda, performMove, hostMove, readByteMove, if_pos hdst]
    rfl
  · have hdst : ¬(s.setAgenda rest).dstBusy a.toNat = true := fun h => by
      obtain ⟨e, he, hb, hin⟩ := State.dstBusy_iff.mp h
      exact absurd hin (by simpa using hfree e he hb)
    rw [step_of_agenda hagenda, performMove, hostMove, readByteMove, if_neg hdst]
    rfl
  · rw [step_of_agenda hagenda]
    refine ⟨_, _, rfl, Memory.write_wf _ _ _ a.isLt hm, fun b => Memory.read_write _ _ _ _ hm, List.length_map _,
      fun n e he => ⟨e.raced || (e.busy && (e.footprint s.params).covers a.toNat), ?_, ?_⟩⟩
    · simp only [State.setAgenda_insts, List.getElem?_map, he, Option.map_some, Engine.hitBy_eq]
      rfl
    · simp only [Bool.or_eq_true, Bool.and_eq_true, Footprint.covers, Footprint.inRaw_iff]
      rfl

end Sys2Proof.Machine

/-! ## The reads of a pair

O22 and O46: what the raw reads of RECONSTRUCT find, and where they lie (R57, R105, R110 to R114). -/

namespace Sys2Proof.Machine

/-! ### What they find -/

/-- A cell whose reads all find what the data space holds is the formula of R112 over the data space. -/
theorem cell_of_reads {src : Nat → Nat → Byte} {m : Memory} {f : Frame} {g : TileGeometry} {j : Nat} (i : Nat)
    (h : ∀ a ∈ cellReads f g j, ∀ i, src i a = m.read a) :
    cell src f g i j = cell (fun _ a => m.read a) f g 0 j := by
  simp only [cellReads, List.forall_mem_cons] at h
  obtain ⟨hr, hb, hg, hg', -⟩ := h
  simp only [cell, hr, hb, hg, hg']

/-- What `left` reads is part of what the pair reads. -/
theorem cellReads_subset_pairReads (p : Params) (f : Frame) (g : TileGeometry) (c : Nat) :
    cellReads f g c ⊆ pairReads p f g c := List.subset_append_left ..

/-- So is what `right` reads, one period on (R113). -/
theorem cellReads_next_subset_pairReads {p : Params} {f : Frame} {c : Nat} (g : TileGeometry) (h : c + 4 ≤ f.W) :
    cellReads f g (c + 2) ⊆ pairReads p f g c := by
  rw [pairReads, if_pos h]; exact List.subset_append_right ..

/-- And at the last pair under REFERENCE, at column W (R114). -/
theorem cellReads_edge_subset_pairReads {p : Params} {f : Frame} {c : Nat} (g : TileGeometry) (h : ¬c + 4 ≤ f.W)
    (hp : p.edgeRight = .reference) : cellReads f g f.W ⊆ pairReads p f g c := by
  rw [pairReads, if_neg h, hp]; exact List.subset_append_right ..

/-- Settles O22: each cell of the pair reads a part of `pairReads`, and none of those reads is drawn. -/
theorem kernelReadsTheTwoByTwoBlock : Obligations.KernelReadsTheTwoByTwoBlock := by
  unfold Obligations.KernelReadsTheTwoByTwoBlock
  intro s e hclash g S cellAt
  have hcell : ∀ i j, cellReads e.frame g j ⊆ pairReads s.params e.frame g e.c.toNat →
      cell (pairSource { eng := e.advanced, mem := s.mem, draws := s.draws }) e.frame g i j = cellAt j :=
    fun i j hj => cell_of_reads i fun a ha i => pairSource_of_not_inDst i
      (by simpa only [Engine.advanced_clash] using hclash a (hj ha))
  refine ⟨hcell 0 _ (cellReads_subset_pairReads ..), fun hin => ?_,
    fun hlast => ⟨fun hdraw => ?_, fun href => ?_⟩⟩
  · have hin : e.c.toNat + 4 ≤ e.frame.W := hin
    rw [State.rightOf, rightTriple, if_pos hin]
    exact hcell 4 _ (cellReads_next_subset_pairReads g hin)
  · refine ⟨s.draws + 8, s.draws + 9, s.draws + 10, by omega, by omega, by omega, by omega, by omega, ?_⟩
    rw [State.rightOf, rightTriple, if_neg (by simpa using hlast), edgeCell, hdraw]
  · have hout : ¬e.c.toNat + 4 ≤ e.frame.W := by simpa using hlast
    rw [State.rightOf, rightTriple, if_neg hout, edgeCell, href]
    exact hcell 4 _ (cellReads_edge_subset_pairReads g hout href)

/-! ### Where they lie -/

/-- ADVANCE moves the row references alone (R103). -/
theorem rowGeometry_parities (p : Pattern) (k : Nat) :
    (rowGeometry p k).redRow = (patternTable p).redRow ∧ (rowGeometry p k).blueRow = (patternTable p).blueRow ∧
    (rowGeometry p k).redCol = (patternTable p).redCol ∧ (rowGeometry p k).blueCol = (patternTable p).blueCol := by
  induction k with
  | zero => exact ⟨rfl, rfl, rfl, rfl⟩
  | succ k ih => exact ih

/-- The row reference of one colour after ADVANCE(k + 1) (R103): it moves on by a period exactly if row k was of its
parity `q`. -/
theorem advance_idx {x : Word} {k q : Nat} (hk : k + 2 < 2 ^ 32) (hq : q < 2)
    (hx : x.toNat = if k % 2 = q then k else k + 1) :
    (if (k + 1 + (1 - q)) % 2 = 0 then x + 2 else x).toNat = if (k + 1) % 2 = q then k + 1 else k + 1 + 1 := by
  by_cases h : k % 2 = q
  · rw [if_pos h] at hx
    rw [if_pos (by omega), if_neg (by omega), BitVec.toNat_add, hx]
    exact Nat.mod_eq_of_lt hk
  · rw [if_neg h] at hx
    rw [if_neg (by omega), if_pos (by omega), hx]

/-- The row references in which row k is reconstructed: the row of each colour's parity among k and k + 1 (R104). -/
theorem rowGeometry_idx (p : Pattern) (k : Nat) (hk : k + 1 < 2 ^ 32) :
    (rowGeometry p k).redIdx.toNat = (if k % 2 = (patternTable p).redRow.toNat then k else k + 1) ∧
    (rowGeometry p k).blueIdx.toNat = (if k % 2 = (patternTable p).blueRow.toNat then k else k + 1) := by
  induction k with
  | zero => cases p <;> exact ⟨rfl, rfl⟩
  | succ k ih =>
    obtain ⟨hred, hblue⟩ := ih (by omega)
    obtain ⟨hredRow, hblueRow, -, -⟩ := rowGeometry_parities p k
    have hother : (patternTable p).blueRow.toNat = 1 - (patternTable p).redRow.toNat ∧
        (patternTable p).redRow.toNat = 1 - (patternTable p).blueRow.toNat := by cases p <;> exact ⟨rfl, rfl⟩
    refine ⟨?_, ?_⟩
    · rw [← advance_idx hk (patternTable p).redRow.isLt hred, ← hother.1, ← hblueRow]; rfl
    · rw [← advance_idx hk (patternTable p).blueRow.isLt hblue, ← hother.2, ← hredRow]; rfl

/-- Both row references are k or k + 1 (R105). -/
theorem rowGeometry_idx_cases (p : Pattern) {k : Nat} (hk : k + 1 < 2 ^ 32) :
    ((rowGeometry p k).redIdx.toNat = k ∨ (rowGeometry p k).redIdx.toNat = k + 1) ∧
    ((rowGeometry p k).blueIdx.toNat = k ∨ (rowGeometry p k).blueIdx.toNat = k + 1) := by
  obtain ⟨hred, hblue⟩ := rowGeometry_idx p k hk
  rw [hred, hblue]
  constructor <;> split <;> simp

/-- CELL at column j reads rows of the two references and columns j and j + 1 (R112). -/
theorem mem_cellReads {f : Frame} {g : TileGeometry} {j a : Nat} (h : a ∈ cellReads f g j) :
    ∃ r c, (r = g.redIdx.toNat ∨ r = g.blueIdx.toNat) ∧ j ≤ c ∧ c ≤ j + 1 ∧ a = f.A + r * f.P + c := by
  have hred := g.redCol.isLt
  have hblue := g.blueCol.isLt
  simp only [cellReads, List.mem_cons, List.not_mem_nil, or_false, sampleAddr] at h
  rcases h with rfl | rfl | rfl | rfl
  · exact ⟨_, _, .inl rfl, by omega, by omega, rfl⟩
  · exact ⟨_, _, .inr rfl, by omega, by omega, rfl⟩
  · exact ⟨_, _, .inl rfl, by omega, by omega, rfl⟩
  · exact ⟨_, _, .inr rfl, by omega, by omega, rfl⟩

theorem rawCols_eq (p : Params) (f : Frame) : rawCols p f = if p.edgeRight = .draw then f.W else f.W + 2 := by
  unfold rawCols
  cases p.edgeRight <;> rfl

/-- Every read of a pair is one of a cell whose two columns are raw columns of the job (R57, R113, R114). -/
theorem mem_pairReads_cell {p : Params} {f : Frame} {g : TileGeometry} {c a : Nat} (hc : c + 2 ≤ f.W)
    (h : a ∈ pairReads p f g c) : ∃ j, j + 2 ≤ rawCols p f ∧ a ∈ cellReads f g j := by
  rcases List.mem_append.mp h with h | h
  · exact ⟨c, by rw [rawCols_eq]; split <;> omega, h⟩
  · split at h
    · exact ⟨c + 2, by rw [rawCols_eq]; split <;> omega, h⟩
    · cases hp : p.edgeRight <;> rw [hp] at h
      · cases h
      · exact ⟨f.W, by simp [rawCols_eq, hp], h⟩

/-- The reads of the next pair lie in rows k and k + 1 of RawFP, which ends below 2^32 (R57, R105, R162). -/
theorem Engine.RowReady.mem_pairReads {p : Params} {fmt : Format} {e : Engine} {a : Nat} (h : e.RowReady p fmt)
    (ha : a ∈ pairReads p e.frame e.advanced.geom e.c.toNat) :
    ∃ r c, (r = e.k.toNat ∨ r = e.k.toNat + 1) ∧ r < e.height.toNat ∧ c < rawCols p e.frame ∧
      a = e.rawAddr.toNat + r * e.rawStride.toNat + c ∧ a < 2 ^ 32 := by
  obtain ⟨hk, hc, -, -⟩ := e.rowsValid_iff.mp h.rows
  rw [Engine.advanced_geom_of_valid h.rows] at ha
  obtain ⟨j, hj, ha⟩ := mem_pairReads_cell hc ha
  obtain ⟨r, c, hr, -, hcj, rfl⟩ := mem_cellReads ha
  have hheight := e.height.isLt
  obtain ⟨hred, hblue⟩ := rowGeometry_idx_cases e.physPattern (k := e.k.toNat) (by omega)
  have hrow : r = e.k.toNat ∨ r = e.k.toNat + 1 := by rcases hr with rfl | rfl <;> assumption
  have hmul : r * e.rawStride.toNat ≤ (e.height.toNat - 1) * e.rawStride.toNat :=
    Nat.mul_le_mul_right _ (by omega)
  have hend := h.fits.raw
  simp only [Engine.frame_A, Engine.frame_P, Engine.frame_H] at hend ⊢
  exact ⟨r, c, hrow, by omega, by omega, rfl, by omega⟩

/-- Settles O46: the row references are k and k + 1, and VALIDATE has kept RawFP below 2^32. -/
theorem pairReadsLieInTheRawFootprint : Obligations.PairReadsLieInTheRawFootprint := by
  unfold Obligations.PairReadsLieInTheRawFootprint
  intro p e hinv hp a ha
  obtain ⟨fmt, -, hready⟩ := hinv.rowReady hp
  obtain ⟨r, c, hr, hH, hc, haddr, hlt⟩ := hready.mem_pairReads ha
  exact ⟨r, c, hr, hH, rawCols_eq p e.frame ▸ hc, haddr, hlt⟩

end Sys2Proof.Machine

/-! ## Refused accesses

O38: the first engine access that the platform does not admit (R53, R54, R212, R214). -/

namespace Sys2Proof.Machine

/-- A sequence of stores ends at the first that is not admitted (R212). -/
theorem storeAll_refused {p : Params} {before : List Host.Cell} {x : Host.Cell} (m : Memory) (after : List Host.Cell)
    (hb : ∀ y ∈ before, canWrite p y.1 = true) (hx : canWrite p x.1 = false) :
    storeAll p m (before ++ x :: after) = (writeList m before, false) := by
  induction before generalizing m with
  | nil => simp [storeAll, hx]
  | cons y rest ih =>
    obtain ⟨hy, hrest⟩ := List.forall_mem_cons.mp hb
    simp only [List.cons_append, storeAll, hy, if_true, writeList_cons]
    exact ih _ hrest

/-- A pair with a refused raw read stores nothing (R212). -/
theorem pairWork_of_refused_read {p : Params} {fmt : Format} {w : Work}
    (h : (pairReads p w.eng.frame w.eng.advanced.geom w.eng.c.toNat).all (canRead p) = false) :
    pairWork p fmt w = { w with eng := { w.eng.advanced with phase := .faulted } } := by
  rcases pairWork_cases p fmt w with ⟨hr, -⟩ | ⟨hr, -⟩ | ⟨-, h'⟩
  · rw [h] at hr; cases hr
  · rw [h] at hr; cases hr
  · exact h'

/-- A pair with a refused store has made those before it (R212). -/
theorem pairWork_of_refused_store {p : Params} {fmt : Format} {w : Work} {before after : List Host.Cell} {x : Host.Cell}
    (hr : (pairReads p w.eng.frame w.eng.advanced.geom w.eng.c.toNat).all (canRead p) = true)
    (hcells : pairCells p fmt { w with eng := w.eng.advanced } = before ++ x :: after)
    (hb : ∀ y ∈ before, canWrite p y.1 = true) (hx : canWrite p x.1 = false) :
    pairWork p fmt w = { eng := { w.eng.advanced with phase := .faulted }
                         mem := writeList w.mem before, draws := w.draws + 11 } := by
  simp only [pairWork, Engine.advanced_frame, Engine.advanced_c, hr, if_true, hcells, storeAll_refused _ _ hb hx]
  rfl

theorem groupSize_pos (g : GroupPairs) : 1 ≤ groupSize g := by cases g <;> decide

/-- A group ends with a pair that met a refused access (R212). -/
theorem groupWork_of_faulted {p : Params} {fmt : Format} {g : Nat} {w : Work} (hg : 1 ≤ g)
    (h : (pairWork p fmt w).eng.phase = .faulted) : groupWork p fmt g w = pairWork p fmt w := by
  obtain ⟨g, rfl⟩ : ∃ g', g = g' + 1 := ⟨g - 1, by omega⟩
  rw [groupWork]
  exact if_neg (by rw [h]; simp)

/-- A step of ROWS whose first pair met a refused access records F_MEM (R214). -/
theorem rowsStep_of_faulted {s : State} {n : Nat} {e : Engine} {fmt : Format} {w : Work}
    (hw : pairWork s.params fmt { eng := e, mem := s.mem, draws := s.draws } = w) (h : w.eng.phase = .faulted) :
    rowsStep fmt n e s = { s with
      insts := s.insts.set n w.eng, mem := w.mem, draws := w.draws, faults := { s.faults with mem := true } } := by
  subst hw
  rw [rowsStep, groupWork_of_faulted (groupSize_pos _) h, commit_of_faulted h]

/-- The stores of the next pair, in the triples its statements name. -/
theorem State.pairCells_eq (s : State) (e : Engine) (fmt : Format) :
    pairCells s.params fmt { eng := e.advanced, mem := s.mem, draws := s.draws } =
      sink fmt e.frame e.k.toNat e.c.toNat (s.leftOf e) (s.rightOf e) := by
  simp only [pairCells, Engine.advanced_frame, Engine.advanced_k, Engine.advanced_c]
  rfl

/-- A step of BORDER whose row copy met a refused access records F_MEM (R214). -/
theorem borderStep_of_refused {s : State} {n : Nat} {e : Engine} {fmt : Format} {r : RowCopy} {m : Memory}
    (hr : (borderPlanes s.params fmt e.frame)[e.plane]? = some r) (h : copyRow s.params r s.mem = (m, false)) :
    borderStep fmt n e s = { s with
      insts := s.insts.set n { e with phase := .faulted }, mem := m, faults := { s.faults with mem := true } } := by
  have hcopy : copyWork s.params r { eng := e, mem := s.mem, draws := s.draws } =
      { eng := { e with phase := .faulted }, mem := m, draws := s.draws } := by rw [copyWork, h]
  rw [borderStep, hr]
  exact (congrArg (s.commit n) hcopy).trans (commit_of_faulted rfl)

/-- A row copy whose byte `i` is the first that is not admitted has copied those before it, and no other (R170, R212):
source and destination are neighbouring rows. -/
theorem copyRow_refused {p q : Params} {fmt : Format} {f : Frame} {r : RowCopy} {m : Memory} {src dst i : Nat}
    (hr : r ∈ borderPlanes q fmt f) (hm : m.wf) (hsrc : src = r.base + r.src * r.pitch)
    (hdst : dst = r.base + r.dst * r.pitch) (hi : i < r.pitch)
    (hok : ∀ j < i, canRead p (src + j) = true ∧ canWrite p (dst + j) = true)
    (hx : canRead p (src + i) = false ∨ canWrite p (dst + i) = false) :
    ∃ m' : Memory, copyRow p r m = (m', false) ∧ m'.wf ∧ (∀ j < i, m'.read (dst + j) = m.read (src + j)) ∧
      ∀ a, (a < dst ∨ dst + i ≤ a) → m'.read a = m.read a := by
  have hcopy : copyRow p r m = ((copyBytes p src dst m 0 i).1, false) := by
    rw [copyRow, ← hsrc, ← hdst]
    exact copyBytes_refused p src dst m 0 i r.pitch hi (by simpa using hok) (by simpa using hx)
  have hrows : src + 0 + i ≤ dst + 0 ∨ dst + 0 + i ≤ src + 0 ∨ src = dst := by
    have := borderPlanes_rows hr
    omega
  obtain ⟨-, hcopied⟩ := copyBytes_ok p src dst m 0 i hm hrows fun j _ hj => hok j (by omega)
  exact ⟨_, hcopy, copyBytes_wf _ _ _ _ _ _ hm, fun j hj => hcopied j (Nat.zero_le j) (by omega),
    fun a ha => read_copyBytes_outside _ _ _ _ _ _ _ hm (by omega)⟩

/-- Settles O38: a pair whose reads are refused, a pair with a refused store, and a row copy with a refused access. -/
theorem refusedAccessFaultsTheInstance : Obligations.RefusedAccessFaultsTheInstance := by
  unfold Obligations.RefusedAccessFaultsTheInstance
  refine ⟨fun s n e p fmt he hp hread => ?_, fun s n e p fmt before after x hready hcells hb hx => ?_, ?_⟩
  · rw [exec_rows fmt p he hp, rowsStep_of_faulted (pairWork_of_refused_read hread) rfl]
  · obtain ⟨he, hp, -, hm, hread⟩ := hready
    rw [← s.pairCells_eq e fmt] at hcells
    rw [exec_rows fmt p he hp, rowsStep_of_faulted (pairWork_of_refused_store hread hcells hb hx) rfl]
    have hlt : ∀ y ∈ before, y.1 < 2 ^ 32 := fun y hy => canWrite_lt (hb y hy)
    exact ⟨_, rfl, writeList_wf _ _ hlt hm, fun a ha => read_writeList_of_not_mem _ _ _ hlt hm ha,
      fun hd y hy => read_writeList_of_mem _ _ _ hlt hm hd hy⟩
  · intro s n e p fmt r i he hp hm hr hi src dst hok hx
    obtain ⟨m, hcopy, hwf, hcopied, hout⟩ :=
      copyRow_refused (List.mem_of_getElem? hr) hm rfl rfl hi hok hx
    rw [exec_border fmt p he hp, borderStep_of_refused hr hcopy]
    exact ⟨m, rfl, hwf, hcopied, hout⟩

end Sys2Proof.Machine

/-! ## A whole job on a platform that admits every access

O48, and what any statement about a whole job needs: the steps from START to BORDER, counted as R177 counts them, with
whatever every pair of them keeps. -/

namespace Sys2Proof.Machine

/-! ### Taking an operation through its steps -/

theorem execTimes_succ {i : Instr} {s t : State} (n : Nat) (h : exec i s = .next t) :
    execTimes i (n + 1) s = execTimes i n t := by simp only [execTimes, h]

theorem execTimes_add {i : Instr} {s t : State} {a : Nat} (b : Nat) (h : execTimes i a s = .next t) :
    execTimes i (a + b) s = execTimes i b t := by
  induction a generalizing s with
  | zero => cases h; rw [Nat.zero_add]
  | succ a ih =>
    rw [execTimes] at h
    split at h
    · rename_i u hu
      rw [Nat.add_right_comm, execTimes_succ _ hu]
      exact ih h
    · cases h
    · cases h

/-- The instance just put in a list that held one there. -/
theorem getElem?_set_of_some {l : List Engine} {n : Nat} {e : Engine} (d : Engine) (h : l[n]? = some e) :
    (l.set n d)[n]? = some d := by
  obtain ⟨hn, -⟩ := List.getElem?_eq_some_iff.mp h
  exact List.getElem?_set_self hn

/-- Of two engine steps of one instance, the first of which met no refused access, the second is what shows. -/
theorem commit_commit {s : State} {n : Nat} {v w : Work} (hv : v.eng.phase ≠ .faulted) :
    (s.commit n v).commit n w = s.commit n w := by
  rw [commit_of_ok hv]
  simp only [State.commit, State.setInst, State.addFaults, List.set_set]

/-! ### One pair and one group -/

/-- RawFP lies in the data space, so a platform that admits every access admits the reads of a pair. -/
theorem Engine.RowReady.reads_admitted {p : Params} {fmt : Format} {e : Engine} (h : e.RowReady p fmt)
    (hp : p.AdmitsAll) : (pairReads p e.frame e.advanced.geom e.c.toNat).all (canRead p) = true := by
  refine List.all_eq_true.mpr fun a ha => ?_
  obtain ⟨_, _, -, -, -, -, hlt⟩ := h.mem_pairReads ha
  exact (hp a hlt).1

/-- A pair whose accesses are all admitted makes every store and moves on (R165). -/
theorem pairWork_of_admitted {p : Params} {fmt : Format} {w : Work} (h : w.eng.RowReady p fmt) (hp : p.AdmitsAll) :
    (∀ x ∈ pairCells p fmt { w with eng := w.eng.advanced }, x.1 < 2 ^ 32) ∧
    pairWork p fmt w = { eng := w.eng.advanced.nextPair
                         mem := writeList w.mem (pairCells p fmt { w with eng := w.eng.advanced })
                         draws := w.draws + 11 } := by
  have hdst := h.fits.dst
  have hlt : ∀ x ∈ pairCells p fmt { w with eng := w.eng.advanced }, x.1 < 2 ^ 32 := fun x hx => by
    obtain ⟨-, hx⟩ := pairCells_in_footprint h x hx
    exact lt_of_lt_of_le hx hdst
  rcases pairWork_cases p fmt w with ⟨-, -, h'⟩ | ⟨-, before, x, after, hcells, -, hx, -⟩ | ⟨hr, -⟩
  · exact ⟨hlt, h'⟩
  · have := (hp x.1 (hlt x (by simp [hcells]))).2
    rw [hx] at this; cases this
  · rw [h.reads_admitted hp] at hr; cases hr

theorem pairWork_not_faulted {p : Params} {fmt : Format} {w : Work} (h : w.eng.RowReady p fmt) (hp : p.AdmitsAll)
    (hw : w.eng.phase = .rows) : (pairWork p fmt w).eng.phase ≠ .faulted := by
  rw [(pairWork_of_admitted h hp).2]
  unfold Engine.nextPair
  split_ifs <;> simp [hw]

/-- A pair that leaves its instance in ROWS leaves it before a pair of the same job. -/
theorem Engine.RowReady.pairWork {p q : Params} {fmt fmt' : Format} {w : Work} (h : w.eng.RowReady p fmt)
    (hw : w.eng.phase = .rows) (hv : (pairWork q fmt' w).eng.phase = .rows) :
    (pairWork q fmt' w).eng.RowReady p fmt := by
  refine ⟨(pairWork_sameJob q fmt' w).frame ▸ h.fits, ?_⟩
  rcases pairWork_phase q fmt' w hw h.rows with ⟨-, hrows⟩ | hb | hf
  · exact hrows
  · rw [hb] at hv; cases hv
  · rw [hf] at hv; cases hv

/-- Where a group of up to `g` pairs leaves the counters: `g` pairs on in its row, or at the end of the row, with the
next row or with BORDER before it (R165, R173). -/
theorem groupWork_counters {p : Params} {fmt : Format} (hp : p.AdmitsAll) (g : Nat) {w : Work}
    (h : w.eng.RowReady p fmt) (hw : w.eng.phase = .rows) :
    let v := (groupWork p fmt g w).eng
    (w.eng.c.toNat + 2 * g < w.eng.width.toNat ∧ v.phase = .rows ∧ v.k = w.eng.k ∧
      v.c.toNat = w.eng.c.toNat + 2 * g) ∨
    (w.eng.width.toNat ≤ w.eng.c.toNat + 2 * g ∧
      ((w.eng.k.toNat + 3 ≤ w.eng.height.toNat ∧ v.phase = .rows ∧ v.k.toNat = w.eng.k.toNat + 1 ∧ v.c = 0) ∨
       (w.eng.k.toNat + 2 = w.eng.height.toNat ∧ v.phase = .border ∧ v.plane = 0))) := by
  obtain ⟨-, hc, hce, -⟩ := w.eng.rowsValid_iff.mp h.rows
  have hWe : w.eng.width.toNat % 2 = 0 := h.fits.evenW
  induction g generalizing w with
  | zero => exact .inl ⟨by omega, hw, rfl, rfl⟩
  | succ g ih =>
    have hsame := pairWork_sameJob p fmt w
    have hW : (pairWork p fmt w).eng.width.toNat = w.eng.width.toNat := congrArg Frame.W hsame.frame
    have hH : (pairWork p fmt w).eng.height.toNat = w.eng.height.toNat := congrArg Frame.H hsame.frame
    rw [groupWork]
    dsimp only
    rcases pairWork_counters p fmt w h.rows (pairWork_not_faulted h hp hw) hw with
      ⟨hin, hv, hk, hc'⟩ | ⟨hlast, ⟨hrow, hv, hk, hc'⟩ | ⟨hrow, hv, hplane⟩⟩
    · have hne : (pairWork p fmt w).eng.c ≠ 0 := fun h0 => by rw [h0] at hc'; simp at hc'
      rw [if_pos ⟨hv, hne⟩]
      have := ih (h.pairWork hw hv) hv (by omega) (by omega) (by omega)
      rw [hW, hH, hc', hk] at this
      rcases this with ⟨h1, h2, h3, h4⟩ | ⟨h1, h2⟩
      · exact .inl ⟨by omega, h2, h3, by omega⟩
      · exact .inr ⟨by omega, h2⟩
    · rw [if_neg (by simp [hc'])]
      exact .inr ⟨by omega, .inl ⟨hrow, hv, hk, hc'⟩⟩
    · rw [if_neg (by simp [hv])]
      exact .inr ⟨by omega, .inr ⟨hrow, hv, hplane⟩⟩

/-! ### The steps that are left -/

/-- The group steps from the next pair to BORDER (R177): those of the rest of its row and of the rows after it. -/
def Engine.rowsLeft (p : Params) (e : Engine) : Nat :=
  (e.height.toNat - 2 - e.k.toNat) * groupsPerRow p e.frame +
    ((e.width.toNat - e.c.toNat) / 2 + groupSize p.groupPairs - 1) / groupSize p.groupPairs

/-- The group steps of at least one pair, ⌈x/g⌉ of R177. -/
theorem ceilDiv_eq {x g : Nat} (hx : 1 ≤ x) (hg : 1 ≤ g) : (x + g - 1) / g = (x - 1) / g + 1 := by
  rw [show x + g - 1 = x - 1 + g by omega, Nat.add_div_right _ hg]

theorem ceilDiv_of_le {x g : Nat} (hx : 1 ≤ x) (h : x ≤ g) : (x + g - 1) / g = 1 := by
  rw [ceilDiv_eq hx (by omega), Nat.div_eq_of_lt (by omega)]

theorem ceilDiv_of_gt {x g : Nat} (hg : 1 ≤ g) (h : g < x) : (x + g - 1) / g = (x - g + g - 1) / g + 1 := by
  rw [ceilDiv_eq (by omega) hg, show x - 1 = x - g - 1 + g by omega, Nat.add_div_right _ hg,
    ceilDiv_eq (by omega) hg]

theorem Engine.RowReady.rowsLeft_pos {p : Params} {fmt : Format} {e : Engine} (h : e.RowReady p fmt) :
    1 ≤ e.rowsLeft p := by
  obtain ⟨-, hc, -, -⟩ := e.rowsValid_iff.mp h.rows
  rw [Engine.rowsLeft, ceilDiv_eq (by omega) (groupSize_pos _), ← Nat.add_assoc]
  exact Nat.le_add_left 1 _

/-- A group is one of the steps that are left: with one left it ends in BORDER, with more it ends in ROWS, one less
left (R177). -/
theorem groupWork_rowsLeft {p : Params} {fmt : Format} (hp : p.AdmitsAll) {w : Work} (h : w.eng.RowReady p fmt)
    (hw : w.eng.phase = .rows) :
    let v := (groupWork p fmt (groupSize p.groupPairs) w).eng
    (w.eng.rowsLeft p = v.rowsLeft p + 1 ∧ v.phase = .rows) ∨
    (w.eng.rowsLeft p = 1 ∧ v.phase = .border ∧ v.plane = 0) := by
  have hg := groupSize_pos p.groupPairs
  have hf : (groupWork p fmt (groupSize p.groupPairs) w).eng.frame = w.eng.frame :=
    (groupWork_sameJob p fmt _ w hw).frame
  have hW : (groupWork p fmt (groupSize p.groupPairs) w).eng.width.toNat = w.eng.width.toNat := congrArg Frame.W hf
  have hH : (groupWork p fmt (groupSize p.groupPairs) w).eng.height.toNat = w.eng.height.toNat := congrArg Frame.H hf
  obtain ⟨-, hc, hce, -⟩ := w.eng.rowsValid_iff.mp h.rows
  have hWe : w.eng.width.toNat % 2 = 0 := h.fits.evenW
  simp only [Engine.rowsLeft, hf, hW, hH]
  rcases groupWork_counters hp (groupSize p.groupPairs) h hw with
    ⟨hin, hv, hk, hc'⟩ | ⟨hlast, ⟨hrow, hv, hk, hc'⟩ | ⟨hrow, hv, hplane⟩⟩
  · refine .inl ⟨?_, hv⟩
    have hleft : (w.eng.width.toNat - (w.eng.c.toNat + 2 * groupSize p.groupPairs)) / 2 =
        (w.eng.width.toNat - w.eng.c.toNat) / 2 - groupSize p.groupPairs := by omega
    rw [hk, hc', hleft, ceilDiv_of_gt hg (by omega), Nat.add_assoc]
  · refine .inl ⟨?_, hv⟩
    have hrows : w.eng.height.toNat - 2 - w.eng.k.toNat =
        w.eng.height.toNat - 2 - (w.eng.k.toNat + 1) + 1 := by omega
    rw [ceilDiv_of_le (by omega) (by omega), hk, hc', hrows, Nat.succ_mul]
    rfl
  · refine .inr ⟨?_, hv, hplane⟩
    rw [ceilDiv_of_le (by omega) (by omega), show w.eng.height.toNat - 2 - w.eng.k.toNat = 0 by omega, Nat.zero_mul]

/-! ### From START to BORDER -/

/-- What every pair of a job keeps, a group keeps, and it leaves the instance before a pair of the same job if it leaves
it in ROWS. -/
theorem groupWork_carries {p : Params} {fmt : Format} {P : Work → Prop}
    (hP : ∀ w, P w → w.eng.phase = .rows → w.eng.RowReady p fmt → P (pairWork p fmt w)) (g : Nat) {w : Work}
    (h : P w) (hready : w.eng.RowReady p fmt) (hw : w.eng.phase = .rows) :
    P (groupWork p fmt g w) ∧
      ((groupWork p fmt g w).eng.phase = .rows → (groupWork p fmt g w).eng.RowReady p fmt) :=
  groupWork_induct (P := fun v => P v ∧ (v.eng.phase = .rows → v.eng.RowReady p fmt))
    (fun v hv hvp => ⟨hP v hv.1 hvp (hv.2 hvp), (hv.2 hvp).pairWork hvp⟩) g w ⟨h, fun _ => hready⟩ hw

/-- A step of ROWS, with whatever every pair keeps: one of the steps that are left (R165, R177). -/
theorem exec_rows_carries {s : State} {n : Nat} {e : Engine} {fmt : Format} (pat : Pattern) {P : Work → Prop}
    (hadm : s.params.AdmitsAll)
    (hP : ∀ w, P w → w.eng.phase = .rows → w.eng.RowReady s.params fmt → P (pairWork s.params fmt w))
    (he : s.insts[n]? = some e) (hp : e.phase = .rows) (hready : e.RowReady s.params fmt)
    (h : P { eng := e, mem := s.mem, draws := s.draws }) :
    ∃ v : Work, exec (jobInstr n pat fmt) s = .next (s.commit n v) ∧ v.eng.SameJob e ∧ P v ∧
      ((e.rowsLeft s.params = v.eng.rowsLeft s.params + 1 ∧ v.eng.phase = .rows ∧ v.eng.RowReady s.params fmt) ∨
       (e.rowsLeft s.params = 1 ∧ v.eng.phase = .border ∧ v.eng.plane = 0)) := by
  obtain ⟨hv, hvready⟩ := groupWork_carries hP (groupSize s.params.groupPairs) h hready hp
  refine ⟨_, exec_rows fmt pat he hp, groupWork_sameJob _ _ _ _ hp, hv, ?_⟩
  rcases groupWork_rowsLeft hadm (w := { eng := e, mem := s.mem, draws := s.draws }) hready hp with ⟨hmore, hvp⟩ | hlast
  · exact .inl ⟨hmore, hvp, hvready hvp⟩
  · exact .inr hlast

/-- The steps of ROWS that are left lead to the first plane of BORDER, with whatever every pair keeps (R165, R177). -/
theorem execTimes_rows {n : Nat} {fmt : Format} (pat : Pattern) {P : Work → Prop} {p : Params} (hadm : p.AdmitsAll)
    (hP : ∀ w, P w → w.eng.phase = .rows → w.eng.RowReady p fmt → P (pairWork p fmt w)) (N : Nat) {s : State}
    {e : Engine} (hs : s.params = p) (he : s.insts[n]? = some e) (hp : e.phase = .rows) (hready : e.RowReady p fmt)
    (hN : e.rowsLeft p = N) (h : P { eng := e, mem := s.mem, draws := s.draws }) :
    ∃ w : Work, execTimes (jobInstr n pat fmt) N s = .next (s.commit n w) ∧ w.eng.phase = .border ∧
      w.eng.plane = 0 ∧ w.eng.SameJob e ∧ P w := by
  induction N generalizing s e with
  | zero =>
    have := hready.rowsLeft_pos
    omega
  | succ N ih =>
    subst hs
    obtain ⟨v, hstep, hsame, hv, hleft⟩ := exec_rows_carries pat hadm hP he hp hready h
    rw [execTimes_succ _ hstep]
    rcases hleft with ⟨hmore, hvp, hvready⟩ | ⟨hlast, hvp, hplane⟩
    · have hok : v.eng.phase ≠ .faulted := by simp [hvp]
      obtain ⟨w, hw, hwp, hwplane, hwsame, hPw⟩ := ih (s := s.commit n v) (e := v.eng) (s.commit_params n v)
        (by rw [State.commit_insts]; exact getElem?_set_of_some _ he) hvp hvready (by omega)
        (by simpa only [State.commit_mem, State.commit_draws] using hv)
      exact ⟨w, by rw [hw, commit_commit hok], hwp, hwplane, hwsame.trans hsame, hPw⟩
    · obtain rfl : N = 0 := by omega
      exact ⟨v, rfl, hvp, hplane, hsame, hv⟩

/-- VALIDATE of a job with both references and no violation enters ROWS (R163). -/
theorem validateStep_of_startable {s : State} {n : Nat} {e : Engine} {fmt : Format} (pat : Pattern)
    (h : e.Startable s.params fmt) : validateStep fmt n pat e s = s.setInst n (e.enterRows fmt pat) := by
  obtain ⟨hraw, hdst, hok⟩ := h
  have hnull : ¬e.nullRef = true := fun h => (of_decide_eq_true h).elim hraw hdst
  rw [validateStep, if_neg hnull, if_pos hok]

theorem Engine.rowReady_enterRows {p : Params} {fmt : Format} {e : Engine} (pat : Pattern)
    (h : FrameFits p fmt e.frame) : (e.enterRows fmt pat).RowReady p fmt :=
  ⟨h, (Engine.rowsValid_iff _).mpr ⟨by simpa using h.twoH, by simpa using h.twoW, rfl, rfl⟩⟩

/-- At the entry to ROWS the steps of rows 0 to H - 2 are left (R177). -/
theorem Engine.rowsLeft_enterRows {p : Params} {fmt : Format} {e : Engine} (pat : Pattern) (h : 2 ≤ e.height.toNat) :
    (e.enterRows fmt pat).rowsLeft p = (e.frame.H - 1) * groupsPerRow p e.frame := by
  have hH : e.frame.H - 1 = e.height.toNat - 2 - 0 + 1 := by simp only [Engine.frame_H]; omega
  rw [hH, Nat.succ_mul]
  rfl

/-- From VALIDATE to the first plane of BORDER, in as many steps as R177 counts, with whatever every pair keeps. -/
theorem execTimes_to_border {s : State} {n : Nat} {e : Engine} {fmt : Format} (pat : Pattern) {P : Work → Prop}
    (he : s.insts[n]? = some e) (hphase : e.phase = .validate) (hstart : e.Startable s.params fmt)
    (hadm : s.params.AdmitsAll)
    (hP : ∀ w, P w → w.eng.phase = .rows → w.eng.RowReady s.params fmt → P (pairWork s.params fmt w))
    (h : P { eng := e.enterRows fmt pat, mem := s.mem, draws := s.draws }) :
    ∃ w : Work, execTimes (jobInstr n pat fmt) (1 + (e.frame.H - 1) * groupsPerRow s.params e.frame) s =
        .next (s.commit n w) ∧
      w.eng.phase = .border ∧ w.eng.plane = 0 ∧ w.eng.SameJob (e.enterRows fmt pat) ∧ P w := by
  have hfits := frameFits_of_violations_empty hstart.2.2
  have hstep : exec (jobInstr n pat fmt) s = .next (s.setInst n (e.enterRows fmt pat)) := by
    rw [exec_validate fmt pat he hphase, validateStep_of_startable pat hstart]
  rw [Nat.add_comm, execTimes_succ _ hstep]
  obtain ⟨w, hw, hrest⟩ := execTimes_rows (s := s.setInst n (e.enterRows fmt pat)) pat hadm hP _ rfl
    (getElem?_set_of_some _ he) rfl (Engine.rowReady_enterRows pat hfits) (Engine.rowsLeft_enterRows pat hfits.twoH) h
  refine ⟨w, hw.trans ?_, hrest⟩
  simp only [State.commit, State.setInst, State.addFaults, List.set_set]

/-! ### The row copies of BORDER -/

/-- A row copy whose accesses are all admitted ends with the row of `dst` holding that of `src` (R170). -/
theorem copyRow_of_admitted {p q : Params} {fmt : Format} {f : Frame} {r : RowCopy} {m : Memory}
    (hr : r ∈ borderPlanes q fmt f) (hm : m.wf)
    (hok : ∀ j < r.pitch, canRead p (r.base + r.src * r.pitch + j) = true ∧
      canWrite p (r.base + r.dst * r.pitch + j) = true) :
    ∃ m' : Memory, copyRow p r m = (m', true) ∧ m'.wf ∧
      (∀ j < r.pitch, m'.read (r.base + r.dst * r.pitch + j) = m.read (r.base + r.src * r.pitch + j)) ∧
      ∀ a, (a < r.base + r.dst * r.pitch ∨ r.base + r.dst * r.pitch + r.pitch ≤ a) → m'.read a = m.read a := by
  have hrows : r.base + r.src * r.pitch + 0 + r.pitch ≤ r.base + r.dst * r.pitch + 0 ∨
      r.base + r.dst * r.pitch + 0 + r.pitch ≤ r.base + r.src * r.pitch + 0 ∨
      r.base + r.src * r.pitch = r.base + r.dst * r.pitch := by
    have := borderPlanes_rows hr
    omega
  obtain ⟨hdone, hcopied⟩ := copyBytes_ok p (r.base + r.src * r.pitch) (r.base + r.dst * r.pitch) m 0 r.pitch hm
    hrows fun j _ hj => hok j (by omega)
  exact ⟨(copyRow p r m).1, Prod.ext rfl hdone, copyBytes_wf _ _ _ _ _ _ hm,
    fun j hj => hcopied j (Nat.zero_le j) (by omega), fun a ha => read_copyBytes_outside _ _ _ _ _ _ _ hm (by omega)⟩

/-- A step of BORDER whose row copy ends moves on to the next plane (R169, R170). -/
theorem exec_border_copies {s : State} {n : Nat} {e : Engine} {fmt : Format} {r : RowCopy} {m : Memory} (pat : Pattern)
    (he : s.insts[n]? = some e) (hp : e.phase = .border)
    (hr : (borderPlanes s.params fmt e.frame)[e.plane]? = some r) (h : copyRow s.params r s.mem = (m, true)) :
    exec (jobInstr n pat fmt) s =
      .next { s with insts := s.insts.set n { e with plane := e.plane + 1 }, mem := m } := by
  have hcopy : copyWork s.params r { eng := e, mem := s.mem, draws := s.draws } =
      { eng := { e with plane := e.plane + 1 }, mem := m, draws := s.draws } := by rw [copyWork, h]
  have hok : e.phase ≠ .faulted := by simp [hp]
  rw [exec_border fmt pat he hp, borderStep, hr]
  exact congrArg _ ((congrArg (s.commit n) hcopy).trans (commit_of_ok hok))

/-- BORDER of a job with one plane, no race and no overlap: the copy, then the completion, which leaves what the copy
left (R170, R176). -/
theorem execTimes_border_of_one_plane {s : State} {n : Nat} {e : Engine} {fmt : Format} {r : RowCopy} {m : Memory}
    (pat : Pattern) (he : s.insts[n]? = some e) (hp : e.phase = .border)
    (hplanes : borderPlanes s.params fmt e.frame = [r]) (hplane : e.plane = 0) (hr : e.raced = false)
    (hc : e.clash = []) (hcopy : copyRow s.params r s.mem = (m, true)) :
    ∃ t : State, execTimes (jobInstr n pat fmt) 2 s = .next t ∧ t.mem = m := by
  have hcopied := exec_border_copies pat he hp (by rw [hplanes, hplane]; rfl) hcopy
  have hdone : (borderPlanes s.params fmt e.frame).length ≤ e.plane + 1 := by rw [hplanes, hplane]; rfl
  have hcompleted := exec_border_completes
    (s := { s with insts := s.insts.set n { e with plane := e.plane + 1 }, mem := m })
    (e := { e with plane := e.plane + 1 }) pat (getElem?_set_of_some _ he) hp hdone hr hc
  exact ⟨_, (execTimes_succ 1 hcopied).trans (execTimes_succ 0 hcompleted), rfl⟩

/-! ### ALPHA8 -/

/-- SINK_ALPHA8 stores 0xFF for both pixels (R121). -/
theorem sinkAlpha8_eq (f : Frame) (k c : Nat) (l r : Triple) :
    sinkAlpha8 f k c l r = [(f.D + (k * f.W + c), 0xFF), (f.D + (k * f.W + c) + 1, 0xFF)] := by
  simp [sinkAlpha8, sinkRgb, bytesLE, pixAddr, packAlpha8, Nat.add_assoc]

/-- The first `filled` bytes of DstFP of an ALPHA8 job on the frame `f` hold 0xFF, and every byte outside DstFP what
`m₀` holds. -/
structure Alpha8Filled (m₀ : Memory) (f : Frame) (filled : Nat) (m : Memory) : Prop where
  wf      : m.wf
  full    : ∀ a, f.D ≤ a → a < f.D + filled → m.read a = 0xFF
  outside : ∀ a, (a < f.D ∨ f.D + f.W * f.H ≤ a) → m.read a = m₀.read a

/-- How many pixels the pairs before the next one have stored; all rows but the last once ROWS is over (R165). -/
def Engine.pixelsStored (e : Engine) : Nat :=
  if e.phase = .rows then e.k.toNat * e.width.toNat + e.c.toNat else (e.height.toNat - 1) * e.width.toNat

/-- A pair stores two more pixels (R165). -/
theorem pixelsStored_pairWork {p : Params} {fmt : Format} {w : Work} (h : w.eng.RowReady p fmt) (hp : p.AdmitsAll)
    (hw : w.eng.phase = .rows) : (pairWork p fmt w).eng.pixelsStored = w.eng.pixelsStored + 2 := by
  have hsame := pairWork_sameJob p fmt w
  have hW : (pairWork p fmt w).eng.width.toNat = w.eng.width.toNat := congrArg Frame.W hsame.frame
  have hH : (pairWork p fmt w).eng.height.toNat = w.eng.height.toNat := congrArg Frame.H hsame.frame
  obtain ⟨-, hc, hce, -⟩ := w.eng.rowsValid_iff.mp h.rows
  have hWe : w.eng.width.toNat % 2 = 0 := h.fits.evenW
  simp only [Engine.pixelsStored, hw, hW, hH, if_true]
  rcases pairWork_counters p fmt w h.rows (pairWork_not_faulted h hp hw) hw with
    ⟨-, hv, hk, hc'⟩ | ⟨hlast, ⟨-, hv, hk, hc'⟩ | ⟨hrow, hv, -⟩⟩
  · rw [if_pos hv, hk, hc', Nat.add_assoc]
  · rw [if_pos hv, hk, hc', Nat.succ_mul]
    have hzero : (0 : Word).toNat = 0 := rfl
    omega
  · rw [if_neg (by simp [hv]), show w.eng.height.toNat - 1 = w.eng.k.toNat + 1 by omega, Nat.succ_mul]
    omega

/-- What every pair of an ALPHA8 job on the frame `f` keeps: the pixels stored so far are filled. -/
def Alpha8Progress (m₀ : Memory) (f : Frame) (w : Work) : Prop :=
  w.eng.frame = f ∧ Alpha8Filled m₀ f w.eng.pixelsStored w.mem

theorem alpha8Progress_enterRows {m : Memory} (e : Engine) (pat : Pattern) (d : Nat) (hm : m.wf) :
    Alpha8Progress m e.frame { eng := e.enterRows .alpha8 pat, mem := m, draws := d } := by
  have hnone : (e.enterRows .alpha8 pat).pixelsStored = 0 := by simp [Engine.pixelsStored]
  exact ⟨rfl, hm, fun a hD ha => by simp only [hnone] at ha; omega, fun _ _ => rfl⟩

/-- A pair of an ALPHA8 job fills two bytes more, whatever it reads (R121). -/
theorem alpha8Progress_pairWork {p : Params} {m₀ : Memory} {f : Frame} {w : Work} (hp : p.AdmitsAll)
    (hprog : Alpha8Progress m₀ f w) (hw : w.eng.phase = .rows) (h : w.eng.RowReady p .alpha8) :
    Alpha8Progress m₀ f (pairWork p .alpha8 w) := by
  obtain ⟨rfl, hm⟩ := hprog
  refine ⟨(pairWork_sameJob p .alpha8 w).frame, ?_⟩
  rw [pixelsStored_pairWork h hp hw]
  have hwf := pairWork_wf p .alpha8 w hm.wf
  refine ⟨hwf, fun a hD ha => ?_, fun a ha => ?_⟩
  · obtain ⟨hlt, hpair⟩ := pairWork_of_admitted h hp
    have hcells : pairCells p .alpha8 { w with eng := w.eng.advanced } =
        [(w.eng.frame.D + w.eng.pixelsStored, 0xFF), (w.eng.frame.D + w.eng.pixelsStored + 1, 0xFF)] := by
      simp only [pairCells, sink, sinkAlpha8_eq, Engine.advanced_frame, Engine.advanced_k, Engine.advanced_c,
        Engine.pixelsStored, hw, if_true, Engine.frame_W]
    simp only [hcells, List.forall_mem_cons] at hlt
    simp only [hpair, hcells, writeList_cons, writeList_nil]
    rw [Memory.read_write _ _ _ _ (Memory.write_wf _ _ _ hlt.1 hm.wf), Memory.read_write _ _ _ _ hm.wf]
    split_ifs
    · rfl
    · rfl
    · exact hm.full a hD (by omega)
  · exact (read_pairWork_outside h hm.wf ha).trans (hm.outside a ha)

/-- BORDER of an ALPHA8 job copies its one plane, a filled row into the last one, and DstFP is filled (R131, R170). -/
theorem alpha8Filled_copyRow {p : Params} {m₀ m : Memory} {f : Frame} (h : FrameFits p .alpha8 f) (hp : p.AdmitsAll)
    (hm : Alpha8Filled m₀ f ((f.H - 1) * f.W) m) :
    ∃ m' : Memory, copyRow p (lastRowCopy f f.D (f.W * 1)) m = (m', true) ∧ Alpha8Filled m₀ f (f.W * f.H) m' := by
  obtain ⟨hH, hdst⟩ : 2 ≤ f.H ∧ f.D + f.W * f.H ≤ 2 ^ 32 := ⟨h.twoH, h.dst⟩
  have hlast : f.W * f.H = (f.H - 1) * f.W + f.W := by
    rw [← Nat.succ_mul, Nat.succ_eq_add_one, Nat.sub_add_cancel (by omega), Nat.mul_comm]
  have hprev : (f.H - 1) * f.W = (f.H - 2) * f.W + f.W := by
    rw [← Nat.succ_mul, Nat.succ_eq_add_one, show f.H - 2 + 1 = f.H - 1 by omega]
  obtain ⟨m', hcopy, hwf, hcopied, hkept⟩ := copyRow_of_admitted (p := p) (q := p) (fmt := .alpha8) (f := f)
    (r := lastRowCopy f f.D (f.W * 1)) (by simp [borderPlanes, rgbPlanes]) hm.wf fun j hj => by
      simp only [lastRowCopy, Nat.mul_one] at hj ⊢
      exact ⟨(hp _ (by omega)).1, (hp _ (by omega)).2⟩
  simp only [lastRowCopy, Nat.mul_one] at hcopied hkept
  refine ⟨m', hcopy, hwf, fun a hD ha => ?_, fun a ha => ?_⟩
  · by_cases hrow : a < f.D + (f.H - 1) * f.W
    · rw [hkept a (.inl hrow)]; exact hm.full a hD hrow
    · obtain ⟨j, rfl⟩ := Nat.exists_eq_add_of_le (not_lt.mp hrow)
      rw [hcopied j (by omega)]
      exact hm.full _ (by omega) (by omega)
  · rw [hkept a (by omega)]; exact hm.outside a ha

/-- Settles O48: every pair fills two bytes more, BORDER copies a filled row into the last one, and the completion finds
no byte to draw. -/
theorem alpha8JobFillsItsDestination : Obligations.Alpha8JobFillsItsDestination := by
  unfold Obligations.Alpha8JobFillsItsDestination
  intro s n e pat he hm hphase hstart hadm hr hc
  have hfits := frameFits_of_violations_empty hstart.2.2
  obtain ⟨w, hrun, hwp, hplane, hsame, hframe, hfilled⟩ := execTimes_to_border (n := n) pat he hphase hstart hadm
    (fun _ => alpha8Progress_pairWork hadm) (alpha8Progress_enterRows e pat s.draws hm)
  have hstored : w.eng.pixelsStored = (e.frame.H - 1) * e.frame.W := by
    rw [← hframe, Engine.pixelsStored, if_neg (by simp [hwp])]; rfl
  obtain ⟨m, hcopy, hdone⟩ := alpha8Filled_copyRow hfits hadm (hstored ▸ hfilled)
  have hraced : w.eng.raced = false ∧ w.eng.clash = [] := by
    obtain ⟨_, _, _, _, _, hw⟩ := hsame
    rw [hw]; exact ⟨hr, hc⟩
  obtain ⟨t, hborder, hmem⟩ := execTimes_border_of_one_plane (s := s.commit n w) (e := w.eng) (fmt := .alpha8)
    (r := lastRowCopy e.frame e.frame.D (e.frame.W * 1)) (n := n) (m := m) pat
    (by rw [State.commit_insts]; exact getElem?_set_of_some _ he) hwp (by rw [hframe]; rfl) hplane hraced.1 hraced.2
    (by rw [State.commit_params, State.commit_mem]; exact hcopy)
  refine ⟨t, (execTimes_add 2 hrun).trans hborder, fun a => ?_⟩
  rw [hmem]
  split_ifs with ha
  · exact hdone.full a ha.1 ha.2
  · exact hdone.outside a (by simp only [Engine.frame_D, Engine.frame_W, Engine.frame_H]; omega)

end Sys2Proof.Machine

/-! ## Encoding and decoding

O1, O2, O3, O4: no operand and no meaningful bit is lost between an operation and its encoded object (R81 to R93). -/

namespace Sys2Proof

/-- Settles O1: the round trip of each operation, by name. -/
theorem decodeEncodeRoundTrip : Obligations.DecodeEncodeRoundTrip := by
  unfold Obligations.DecodeEncodeRoundTrip
  intro i
  change Laws.RoundTrip.Statement i
  open Laws.RoundTrip in
  cases i with
  | dmsAlpha8 => exact dmsAlpha8 _ _
  | dmsArgb8888 => exact dmsArgb8888 _ _
  | dmsArgb4444 => exact dmsArgb4444 _ _
  | dmsArgb1555 => exact dmsArgb1555 _ _
  | dmsRgba8888 => exact dmsRgba8888 _ _
  | dmsRgba4444 => exact dmsRgba4444 _ _
  | dmsRgba5551 => exact dmsRgba5551 _ _
  | dmsBgr888 => exact dmsBgr888 _ _
  | dmsRgb888 => exact dmsRgb888 _ _
  | dmsRgb565 => exact dmsRgb565 _ _
  | dmsYv12 => exact dmsYv12 _ _
  | dmsI420 => exact dmsI420 _ _
  | dmsNv12 => exact dmsNv12 _ _
  | dmsNv21 => exact dmsNv21 _ _
  | dmsI422 => exact dmsI422 _ _
  | dmsUyvy => exact dmsUyvy _ _
  | dmsYuy2 => exact dmsYuy2 _ _
  | dmsI444 => exact dmsI444 _ _
  | dmsUnsupported => exact dmsUnsupported _ _ _
  | rdCtrl => exact rdCtrl _
  | rdStatus => exact rdStatus _
  | rdResult => exact rdResult _
  | rdCfg => exact rdCfg _
  | rdRawAddr => exact rdRawAddr _
  | rdRawStride => exact rdRawStride _
  | rdWidth => exact rdWidth _
  | rdHeight => exact rdHeight _
  | rdDstAddr => exact rdDstAddr _
  | wrCtrl => exact wrCtrl _ _
  | wrStatus => exact wrStatus _ _
  | wrResult => exact wrResult _ _
  | wrCfg => exact wrCfg _ _
  | wrRawAddr => exact wrRawAddr _ _
  | wrRawStride => exact wrRawStride _ _
  | wrWidth => exact wrWidth _ _
  | wrHeight => exact wrHeight _ _
  | wrDstAddr => exact wrDstAddr _ _
  | rdRsvd => exact rdRsvd _ _
  | wrRsvd => exact wrRsvd _ _ _

/-! ### The job word -/

/-- The two fields of a job word, packed again, are the word less its reserved bits (R81). -/
theorem packCfg_fields (cfg : Word) : packCfg (cfgFormat cfg) (cfgPattern cfg) = cfg &&& 0x1F03 := by
  have hmask : ∀ i < 32, (0x1F03 : Word).getLsbD i = (decide (8 ≤ i ∧ i < 13) || decide (i < 2)) := by decide
  refine BitVec.eq_of_getLsbD_eq fun i hi => ?_
  rw [packCfg, cfgPattern, code_patternOfCode, cfgFormat, BitVec.getLsbD_and, hmask i hi]
  by_cases hpattern : i < 2
  · simp [hpattern, hi, show i < 8 by omega]
  · by_cases hlow : i < 8
    · simp [hpattern, hi, hlow]
    · simp [hpattern, hi, hlow, show i - 8 < 5 ↔ i < 13 by omega, show 8 + (i - 8) = i by omega, show 8 ≤ i by omega,
        Bool.and_comm]

/-- The word packed from the fields of a job word decodes as that word does (R88). -/
theorem decodeJob_fields (n : Nat) (cfg : Word) :
    decodeJob n (packCfg (cfgFormat cfg) (cfgPattern cfg)) = decodeJob n cfg := by
  simp only [decodeJob, cfgFormat_packCfg, cfgPattern_packCfg]

/-- Reserved bits are ignored (R88). -/
theorem decodeJob_and_mask (n : Nat) (cfg : Word) : decodeJob n (cfg &&& 0x1F03) = decodeJob n cfg := by
  rw [← packCfg_fields, decodeJob_fields]

theorem decodeJob_of_format {n : Nat} {cfg : Word} {f : Format} (h : formatOfCode (cfgFormat cfg) = some f) :
    decodeJob n cfg = jobInstr n (cfgPattern cfg) f := by simp only [decodeJob, h]

theorem decodeJob_of_reserved {n : Nat} {cfg : Word} (h : formatOfCode (cfgFormat cfg) = none) :
    decodeJob n cfg = .dmsUnsupported n (cfgFormat cfg) (cfgPattern cfg) := by simp only [decodeJob, h]

/-- What a job word decodes to encodes as the word of the same FORMAT and PATTERN (R81, R88). -/
theorem encode_decodeJob (n : Nat) (cfg : Word) :
    encode (decodeJob n cfg) = .job n (packCfg (cfgFormat cfg) (cfgPattern cfg)) := by
  cases h : formatOfCode (cfgFormat cfg) with
  | some f => rw [decodeJob_of_format h, encode_jobInstr, formatOfCode_eq_some.mp h]
  | none => rw [decodeJob_of_reserved h]; rfl

/-! ### The transaction word -/

/-- The two fields of a transaction word, packed again, are that word (R82). -/
theorem packTx_fields (tx : BitVec 9) : packTx (tx.getLsbD 8) (tx.extractLsb' 0 8) = tx := by
  revert tx; decide

/-- Decoding an aligned 32-bit transaction, by its direction (R82, R89). -/
theorem decode_packTx {n : Nat} {o : BitVec 8} (write : Bool) (w : Word) (h : o.toNat % 4 = 0) :
    decode (.mmio n (packTx write o) 4 w) = .ok (if write then writeAt n o w else readAt n o) := by
  rw [decode, if_pos rfl, decodeTx, if_pos ((packTx_aligned _ _).mpr h), packTx_write, packTx_offset]
  cases write <;> rfl

/-- A transaction of another size, or at an offset that is not aligned, encodes no operation (R90). -/
theorem decode_packTx_illegal {n size : Nat} {o : BitVec 8} (write : Bool) (w : Word)
    (h : size ≠ 4 ∨ o.toNat % 4 ≠ 0) : ∃ err, decode (.mmio n (packTx write o) size w) = .error err := by
  by_cases hsize : size = 4
  · have haligned : ¬(packTx write o).extractLsb' 0 2 = 0 := by
      rw [packTx_aligned]; exact h.resolve_left (not_not.mpr hsize)
    exact ⟨.misaligned, by rw [decode, if_pos hsize, decodeTx, if_neg haligned]⟩
  · exact ⟨.badSize, by rw [decode, if_neg hsize]⟩

/-- An aligned offset is that of one of the nine registers, or reserved (R33, R89). -/
theorem register_or_reserved {o : BitVec 8} (h : o.toNat % 4 = 0) :
    (o = 0x00 ∨ o = 0x04 ∨ o = 0x08 ∨ o = 0x0C ∨ o = 0x10 ∨ o = 0x14 ∨ o = 0x18 ∨ o = 0x1C ∨ o = 0x20) ∨
    reservedOffset o = true := by
  revert o; decide

theorem readAt_wf (n : Nat) {o : BitVec 8} (h : o.toNat % 4 = 0) : (readAt n o).wf = true := by
  rcases register_or_reserved h with hreg | hrsvd
  · rcases hreg with rfl | rfl | rfl | rfl | rfl | rfl | rfl | rfl | rfl <;> rfl
  · rw [readAt_reserved n o hrsvd]; exact hrsvd

theorem writeAt_wf (n : Nat) {o : BitVec 8} (w : Word) (h : o.toNat % 4 = 0) : (writeAt n o w).wf = true := by
  rcases register_or_reserved h with hreg | hrsvd
  · rcases hreg with rfl | rfl | rfl | rfl | rfl | rfl | rfl | rfl | rfl <;> rfl
  · rw [writeAt_reserved n o w hrsvd]; exact hrsvd

/-- The read at an offset encodes as a read of that offset (R89). -/
theorem encode_readAt (n : Nat) (o : BitVec 8) : encode (readAt n o) = encodeRead n o := by
  unfold readAt
  split_ifs <;> simp only [encode, *]

/-- The write at an offset encodes as a write of that offset, with its data (R89). -/
theorem encode_writeAt (n : Nat) (o : BitVec 8) (w : Word) : encode (writeAt n o w) = encodeWrite n o w := by
  unfold writeAt
  split_ifs <;> simp only [encode, *]

/-- An aligned 32-bit transaction decodes to a well-formed operation, which encodes back to its word, with the data of a
write (R82, R89). -/
theorem decode_packTx_wf {n : Nat} {o : BitVec 8} (write : Bool) (w : Word) (h : o.toNat % 4 = 0) :
    ∃ i, decode (.mmio n (packTx write o) 4 w) = .ok i ∧ i.wf = true ∧
      encode i = .mmio n (packTx write o) 4 (if write = true then w else 0) := by
  refine ⟨_, decode_packTx write w h, ?_⟩
  cases write with
  | true => exact ⟨writeAt_wf n w h, encode_writeAt n o w⟩
  | false => exact ⟨readAt_wf n h, encode_readAt n o⟩

/-! ### The obligations -/

/-- Settles O2: each word is packed from its two fields, and decoding keeps both. -/
theorem encodeDecodeKeepsEveryMeaningfulBit : Obligations.EncodeDecodeKeepsEveryMeaningfulBit := by
  unfold Obligations.EncodeDecodeKeepsEveryMeaningfulBit
  refine ⟨fun n cfg => by rw [encode_decodeJob, packCfg_fields], fun n tx w haligned => ?_⟩
  rw [← packTx_fields tx] at haligned ⊢
  rw [packTx_write]
  exact decode_packTx_wf _ w ((packTx_aligned _ _).mp haligned)

/-- Settles O3: a FORMAT code at most 0x11 is a format's and any other is none's, and the reserved bits may be masked
off. -/
theorem jobDecodeIsTotalAndIgnoresReservedBits : Obligations.JobDecodeIsTotalAndIgnoresReservedBits := by
  unfold Obligations.JobDecodeIsTotalAndIgnoresReservedBits
  intro n cfg
  refine ⟨cfgPattern cfg, code_patternOfCode _, fun hle => ?_, fun hge => ?_, fun cfg' hmask => ?_⟩
  · have hsome : formatOfCode (cfgFormat cfg) ≠ none := fun hnone =>
      absurd (formatOfCode_eq_none.mp hnone) (not_le.mpr (Nat.lt_succ_of_le hle))
    obtain ⟨f, hf⟩ := Option.ne_none_iff_exists'.mp hsome
    exact ⟨f, (formatOfCode_eq_some.mp hf).symm, congrArg Except.ok (decodeJob_of_format hf)⟩
  · exact congrArg Except.ok (decodeJob_of_reserved (formatOfCode_eq_none.mpr hge))
  · exact congrArg Except.ok (by rw [← decodeJob_and_mask n cfg', hmask, decodeJob_and_mask])

/-- An object that a well-formed operation encodes to decodes to that operation. -/
theorem decode_of_encode {i : Instr} {x : Encoded} (hwf : i.wf = true) (h : encode i = x) :
    decode x = .ok i ∧ encode i = x :=
  ⟨h ▸ decodeEncodeRoundTrip i hwf, h⟩

/-- The same of an operation whose job word is written out. -/
theorem decode_of_packCfg {n : Nat} {i : Instr} {c : BitVec 5} {p : Pattern} {cfg : Word} (hwf : i.wf = true)
    (h : encode i = .job n (packCfg c p)) (hcfg : packCfg c p = cfg) :
    decode (.job n cfg) = .ok i ∧ encode i = .job n cfg ∧ packCfg c p = cfg := by
  obtain ⟨hdecode, hencode⟩ := decode_of_encode hwf (hcfg ▸ h)
  exact ⟨hdecode, hencode, hcfg⟩

/-- Settles O4: each row's operation encodes to the row's word, and the round trip gives the other direction. -/
theorem writtenOutWordsDecode : Obligations.WrittenOutWordsDecode := by
  unfold Obligations.WrittenOutWordsDecode
  exact fun n => ⟨decode_of_packCfg rfl rfl (by decide), decode_of_packCfg rfl rfl (by decide),
    decode_of_packCfg rfl rfl (by decide), decode_of_packCfg rfl rfl (by decide),
    decode_of_packCfg rfl rfl (by decide), decode_of_encode rfl rfl, decode_of_encode rfl rfl,
    decode_of_encode rfl rfl⟩

end Sys2Proof

/-! ## Transactions and engine steps

O5, O15, O49, O50: what one step makes of a transaction and of a job word. -/

namespace Sys2Proof.Machine

/-! ### A transaction at the head of the agenda -/

section
variable {s : State} {t : Transaction} {n : Nat} {o : BitVec 8}

/-- A transaction that decodes to an operation runs as that operation (R180). -/
theorem transactMove_of_ok {i : Instr} (hroute : routeFrom t.addr 0 s.insts = some (n, o))
    (h : decode (.mmio n (packTx t.write o) t.size t.wdata) = .ok i) : transactMove t s = exec i s := by
  simp only [transactMove, State.route, hroute, h]

/-- A transaction that encodes no operation is refused (R90, R215). -/
theorem transactMove_of_error {err : DecodeError} (hroute : routeFrom t.addr 0 s.insts = some (n, o))
    (h : decode (.mmio n (packTx t.write o) t.size t.wdata) = .error err) :
    transactMove t s = .next (refuseAccess t s) := by
  simp only [transactMove, State.route, hroute, h]

end

/-- A refused write sets the mark and changes nothing else (R215). -/
theorem refuseAccess_write {t : Transaction} (h : t.write = true) (s : State) : refuseAccess t s = s.markRefused :=
  if_pos h

/-- A refused read sets the mark, and its data is a free value (R215, assumption 3). -/
theorem refuseAccess_read {t : Transaction} (h : t.write = false) (s : State) :
    refuseAccess t s = ((s.markRefused).setRdata (Config.refusedData s.draws)).takeDraws 1 := by
  rw [refuseAccess, h]; rfl

/-- Settles O5: the transaction decodes to no operation, so the step refuses it; that the mark stays is O60's. -/
theorem illegalTransactionSetsOnlyTheMark : Obligations.IllegalTransactionSetsOnlyTheMark := by
  unfold Obligations.IllegalTransactionSetsOnlyTheMark
  refine ⟨fun s t rest n o hagenda hroute hillegal => ?_, fun s t h => (step_effect h).kept.refused⟩
  obtain ⟨err, herr⟩ := decode_packTx_illegal (n := n) t.write t.wdata hillegal
  refine ⟨refuseAccess t (s.setAgenda rest), (step_of_agenda hagenda).trans (transactMove_of_error hroute herr), ?_⟩
  cases hw : t.write with
  | true => simp [refuseAccess_write hw]
  | false => simp [refuseAccess_read hw]

/-- Settles O49: the transaction's word decodes, and the step executes what it decodes to. -/
theorem stepRunsTheDecodedTransaction : Obligations.StepRunsTheDecodedTransaction := by
  unfold Obligations.StepRunsTheDecodedTransaction
  intro s t rest n o hagenda hroute hsize haligned
  obtain ⟨i, hdecode, hwf, -⟩ := decode_packTx_wf (n := n) t.write t.wdata haligned
  exact ⟨i, hdecode, hwf, (step_of_agenda hagenda).trans (transactMove_of_ok hroute (hsize ▸ hdecode))⟩

/-! ### An engine step -/

theorem engineMove_some {s : State} {n : Nat} {e : Engine} (h : s.insts[n]? = some e) :
    engineMove n s = exec (e.jobInstr n) s := by
  simp only [engineMove, h]

/-- With no move pending the engines run on their own (R169). -/
theorem step_of_no_agenda {s : State} (h : s.agenda = []) : step s = idleMove s := by
  simp only [step, h]

/-- An instance has an enabled step exactly when it is BUSY and not FAULTED (R214, R225). -/
theorem Engine.runnable_iff {e : Engine} : e.runnable = true ↔ e.busy = true ∧ e.phase ≠ .faulted := by
  simp [Engine.runnable]

theorem Engine.runnable_eq_false_iff {e : Engine} : e.runnable = false ↔ e.busy = false ∨ e.phase = .faulted := by
  rw [← Bool.not_eq_true, Engine.runnable_iff, not_and_or, Bool.not_eq_true, not_not]

/-- The first instance with an enabled step takes it (R177, assumption 5). -/
theorem idleMove_of_first {s : State} {n : Nat} {e : Engine} (he : s.insts[n]? = some e) (hrun : e.runnable = true)
    (hbelow : ∀ (m : Nat) (d : Engine), m < n → s.insts[m]? = some d → d.runnable = false) :
    idleMove s = engineMove n s := by
  obtain ⟨hlt, rfl⟩ := List.getElem?_eq_some_iff.mp he
  have hfirst : s.insts.findIdx? Engine.runnable = some n :=
    List.findIdx?_eq_some_iff_getElem.mpr ⟨hlt, hrun, fun m hm => by
      simp [hbelow m _ hm (List.getElem?_eq_getElem (hm.trans hlt))]⟩
  simp only [idleMove, hfirst]

/-- With no enabled step nothing happens (R225). -/
theorem idleMove_of_none {s : State} (h : ∀ d ∈ s.insts, d.runnable = false) : idleMove s = .next s := by
  simp only [idleMove, List.findIdx?_eq_none_iff.mpr h]

/-- Settles O50: an engine step runs its instance's job word; the empty agenda gives it to the first enabled instance. -/
theorem stepRunsTheJobOperation : Obligations.StepRunsTheJobOperation := by
  unfold Obligations.StepRunsTheJobOperation
  intro s
  refine ⟨fun n e rest hagenda he => ?_, fun n e hagenda he hbusy hphase hbelow => ?_, fun hagenda hidle => ?_⟩
  · exact (step_of_agenda hagenda).trans (engineMove_some he)
  · rw [step_of_no_agenda hagenda, idleMove_of_first he (Engine.runnable_iff.mpr ⟨hbusy, hphase⟩)
      fun m d hm hd => Engine.runnable_eq_false_iff.mpr (hbelow m d hm hd)]
    exact engineMove_some he
  · rw [step_of_no_agenda hagenda]
    exact idleMove_of_none fun d hd => Engine.runnable_eq_false_iff.mpr (hidle d hd)

/-! ### A reserved FORMAT -/

/-- With both references present a reserved format is what VALIDATE reports (R85, R161, R211). -/
theorem validateUnsupported_of_present {n : Nat} {e : Engine} {s : State} (h : ¬(e.rawAddr = 0 ∨ e.dstAddr = 0)) :
    validateUnsupported n e s = complete .unsupportedFormat none n e s := by
  rw [validateUnsupported, if_neg (show ¬e.nullRef = true from mt of_decide_eq_true h)]

/-- The job operation of a format is not UNSUPPORTED (R80). -/
theorem jobInstr_ne_dmsUnsupported (n m : Nat) (p q : Pattern) (c : BitVec 5) (fmt : Format) :
    Sys2Proof.jobInstr n p fmt ≠ .dmsUnsupported m c q := by
  cases fmt <;> exact Instr.noConfusion

/-- Settles O15: VALIDATE completes the job, which has no byte of DstFP to draw; the codes above 0x11 are those that name
no format. -/
theorem reservedFormatEndsWithUnsupportedFormat : Obligations.ReservedFormatEndsWithUnsupportedFormat := by
  unfold Obligations.ReservedFormatEndsWithUnsupportedFormat
  refine ⟨fun s n e p c he hp hraw hdst => ?_, fun n e => ?_⟩
  · rw [exec_unsupported c p he, hp]
    dsimp only
    rw [validateUnsupported_of_present (not_or.mpr ⟨hraw, hdst⟩), complete_unsupported]
    rfl
  · rw [← formatOfCode_eq_none]
    rcases jobInstr_cases n e with ⟨fmt, hf, hi⟩ | ⟨hf, hi⟩
    · simp [hf, hi, jobInstr_ne_dmsUnsupported]
    · simp [hf, hi]

end Sys2Proof.Machine

/-! ## The tile model and the pair counters

O20, O24, O37 and O47: which rows a pair reads and which raw bytes its triples copy (R104, R106, R116), where it leaves
the counters (R165), and the channel swap of BGR888 (R132). -/

namespace Sys2Proof.Machine

/-- Settles O20: ADVANCE keeps the parities, and moves each row reference on once a period. -/
theorem rowReferencesClosedForm : Obligations.RowReferencesClosedForm := by
  unfold Obligations.RowReferencesClosedForm
  intro p k hk
  obtain ⟨hredRow, hblueRow, hredCol, hblueCol⟩ := rowGeometry_parities p k
  exact ⟨hredRow, hblueRow, hredCol, hblueCol, rowGeometry_idx p k hk⟩

/-! ### The samples of a cell -/

theorem roundAverage_comm (a b : Byte) : roundAverage a b = roundAverage b a := by
  rw [roundAverage, roundAverage, Nat.add_comm a.toNat]

/-- In each pattern red and blue lie on a diagonal of the tile: in different rows and in different columns (R83). -/
theorem patternTable_diagonal (p : Pattern) :
    (patternTable p).redRow.toNat + (patternTable p).blueRow.toNat = 1 ∧
    (patternTable p).redCol.toNat + (patternTable p).blueCol.toNat = 1 := by
  cases p <;> exact ⟨rfl, rfl⟩

/-- The row references by the colour of row k: the native one is k and the other one k + 1 (R104, R106). -/
theorem rowGeometry_idx_of_native (p : Pattern) {k : Nat} (hk : k + 1 < 2 ^ 32) :
    (k % 2 = (patternTable p).redRow.toNat →
      (rowGeometry p k).redIdx.toNat = k ∧ (rowGeometry p k).blueIdx.toNat = k + 1) ∧
    (k % 2 = (patternTable p).blueRow.toNat →
      (rowGeometry p k).redIdx.toNat = k + 1 ∧ (rowGeometry p k).blueIdx.toNat = k) := by
  obtain ⟨hred, hblue⟩ := rowGeometry_idx p k hk
  obtain ⟨hrow, -⟩ := patternTable_diagonal p
  rw [hred, hblue]
  exact ⟨fun h => ⟨if_pos h, if_neg (by omega)⟩, fun h => ⟨if_neg (by omega), if_pos h⟩⟩

/-- CELL in the geometry of row k, by the two row references `r` and `b` (R112). -/
theorem cell_rowGeometry (src : Nat → Nat → Byte) (f : Frame) {p : Pattern} {k r b : Nat} (i j : Nat)
    (hr : (rowGeometry p k).redIdx.toNat = r) (hb : (rowGeometry p k).blueIdx.toNat = b) :
    cell src f (rowGeometry p k) i j =
      { r := src i (sampleAddr f r (j + (patternTable p).redCol.toNat))
        b := src (i + 1) (sampleAddr f b (j + (patternTable p).blueCol.toNat))
        g := roundAverage (src (i + 2) (sampleAddr f r (j + (patternTable p).blueCol.toNat)))
          (src (i + 3) (sampleAddr f b (j + (patternTable p).redCol.toNat))) } := by
  obtain ⟨-, -, hredCol, hblueCol⟩ := rowGeometry_parities p k
  rw [cell, hr, hb, hredCol, hblueCol]

/-- The two greens of a cell, by the column `x` of the colour native in its first row: one lies beside that colour's
sample, in column `y`, and the other below it (R106, R116). -/
theorem roundAverage_greens (S : Nat → Nat → Byte) (k j : Nat) {x y : BitVec 1} (hxy : x.toNat + y.toNat = 1) :
    (x = 0 → roundAverage (S k (j + y.toNat)) (S (k + 1) (j + x.toNat)) =
      roundAverage (S k (j + 1)) (S (k + 1) j)) ∧
    (x = 1 → roundAverage (S k (j + y.toNat)) (S (k + 1) (j + x.toNat)) =
      roundAverage (S k j) (S (k + 1) (j + 1))) := by
  constructor <;> rintro rfl
  · rw [show y.toNat = 1 by simpa using hxy]; rfl
  · rw [show y.toNat = 0 by simpa using hxy]; rfl

/-- Settles O24: in a red row the red reference is k and the blue one k + 1, and in a blue row the other way round. -/
theorem nativeSamplesAreExactAtEvenColumns : Obligations.NativeSamplesAreExactAtEvenColumns := by
  unfold Obligations.NativeSamplesAreExactAtEvenColumns
  intro m f p k j hk S t q
  obtain ⟨hredRow, hblueRow⟩ := rowGeometry_idx_of_native p hk
  have hcols : q.redCol.toNat + q.blueCol.toNat = 1 := (patternTable_diagonal p).2
  refine ⟨fun hnative => ?_, fun hnative => ?_⟩
  · obtain ⟨hr, hb⟩ := hredRow hnative
    have ht := cell_rowGeometry (fun _ a => m.read a) f 0 j hr hb
    have hg : t.g = roundAverage (S k (j + q.blueCol.toNat)) (S (k + 1) (j + q.redCol.toNat)) := congrArg Triple.g ht
    rw [hg]
    exact ⟨congrArg Triple.r ht, congrArg Triple.b ht, roundAverage_greens S k j hcols⟩
  · obtain ⟨hr, hb⟩ := hblueRow hnative
    have ht := cell_rowGeometry (fun _ a => m.read a) f 0 j hr hb
    have hg : t.g = roundAverage (S k (j + q.redCol.toNat)) (S (k + 1) (j + q.blueCol.toNat)) :=
      (congrArg Triple.g ht).trans (roundAverage_comm ..)
    rw [hg]
    exact ⟨congrArg Triple.b ht, congrArg Triple.r ht, roundAverage_greens S k j (by omega)⟩

/-! ### The counters -/

/-- Settles O37: ADVANCE changes `geom` alone, which the counter rule neither reads nor writes. -/
theorem pairCountersAdvance : Obligations.PairCountersAdvance := by
  unfold Obligations.PairCountersAdvance
  intro e g
  have hadv : e.advanced = { e with geom := g } := by
    unfold Engine.advanced g
    split <;> rfl
  rw [hadv]
  rfl

/-! ### The channel swap of BGR888 -/

/-- Two formats with the same destination size, sink and border planes: the driver tells them apart by the pattern it
reconstructs with alone (R58, R102, R166, R170). -/
structure SameLayout (fmt fmt' : Format) : Prop where
  size_eq : formatSize fmt = formatSize fmt'
  sink_eq : sink fmt = sink fmt'
  planes_eq (p : Params) : borderPlanes p fmt = borderPlanes p fmt'

/-- The sink of BGR888 is SINK_RGB888 (R128, R166). -/
theorem sameLayout_bgr888_rgb888 : SameLayout .bgr888 .rgb888 := ⟨rfl, rfl, fun _ => rfl⟩

section
variable {fmt fmt' : Format} {pat pat' : Pattern}

theorem SameLayout.footprintOf_eq (h : SameLayout fmt fmt') (p : Params) (f : Frame) :
    footprintOf p (some fmt) f = footprintOf p (some fmt') f := by
  simp only [footprintOf, h.size_eq]

theorem SameLayout.complete_eq (h : SameLayout fmt fmt') (code : ResultCode) (n : Nat) (e : Engine) (s : State) :
    complete code (some fmt) n e s = complete code (some fmt') n e s := by
  rw [complete, complete, h.footprintOf_eq]

theorem SameLayout.violations_eq (h : SameLayout fmt fmt') (p : Params) (f : Frame) :
    violations p fmt f = violations p fmt' f := by
  simp only [violations, wrapViolated, overlapViolated, h.size_eq, h.footprintOf_eq]

theorem SameLayout.validateStep_eq (h : SameLayout fmt fmt') (hpat : physPatternOf fmt pat = physPatternOf fmt' pat')
    (n : Nat) (e : Engine) (s : State) : validateStep fmt n pat e s = validateStep fmt' n pat' e s := by
  simp only [validateStep, Engine.enterRows, h.complete_eq, h.violations_eq, hpat]

theorem SameLayout.pairWork_eq (h : SameLayout fmt fmt') (p : Params) (w : Work) :
    pairWork p fmt w = pairWork p fmt' w := by
  simp only [pairWork, pairCells, h.sink_eq]

theorem SameLayout.groupWork_eq (h : SameLayout fmt fmt') (p : Params) (g : Nat) (w : Work) :
    groupWork p fmt g w = groupWork p fmt' g w := by
  induction g generalizing w with
  | zero => rfl
  | succ g ih => simp only [groupWork, h.pairWork_eq, ih]

theorem SameLayout.borderStep_eq (h : SameLayout fmt fmt') (n : Nat) (e : Engine) (s : State) :
    borderStep fmt n e s = borderStep fmt' n e s := by
  simp only [borderStep, h.planes_eq, h.complete_eq]

/-- With one layout and one physical pattern, two job operations take the same steps (R169). -/
theorem SameLayout.driverStep_eq (h : SameLayout fmt fmt') (hpat : physPatternOf fmt pat = physPatternOf fmt' pat')
    (n : Nat) (s : State) : driverStep fmt n pat s = driverStep fmt' n pat' s := by
  simp only [driverStep, rowsStep, h.validateStep_eq hpat, h.groupWork_eq, h.borderStep_eq]

end

/-- BGR888 undoes the swap of its pattern operand (R102). -/
theorem physPatternOf_bgr888_swapRB (p : Pattern) : physPatternOf .bgr888 (swapRB p) = physPatternOf .rgb888 p :=
  swapRB_swapRB p

/-- Settles O47: the two formats have one layout, and the swap in the pattern and the swap of BGR888 cancel. -/
theorem channelSwapIdentityAtTheDestination : Obligations.ChannelSwapIdentityAtTheDestination := by
  unfold Obligations.ChannelSwapIdentityAtTheDestination
  intro s n p
  calc exec (.dmsBgr888 n (swapRB p)) s
      = driverStep .bgr888 n (swapRB p) s := exec_jobInstr n (swapRB p) .bgr888 s
    _ = driverStep .rgb888 n p s := sameLayout_bgr888_rgb888.driverStep_eq (physPatternOf_bgr888_swapRB p) n s
    _ = exec (.dmsRgb888 n p) s := (exec_jobInstr n p .rgb888 s).symm

end Sys2Proof.Machine

/-! ## The demosaic kernel

O21 and O23: the rounded mean of the two greens (R111), and a cell under the swapped pattern (R117). -/

namespace Sys2Proof.Machine

/-! ### ROUND_AVG -/

/-- The mean of two bytes, rounded up, fits a byte (R111). -/
theorem toNat_roundAverage (a b : Byte) : (roundAverage a b).toNat = (a.toNat + b.toNat + 1) / 2 := by
  have ha := a.isLt
  have hb := b.isLt
  exact Nat.mod_eq_of_lt (by omega)

/-- Settles O21: shifting right by one halves, and the rounded half of a sum lies between its terms. -/
theorem roundAverageIsTheRoundedMean : Obligations.RoundAverageIsTheRoundedMean := by
  unfold Obligations.RoundAverageIsTheRoundedMean
  intro a b
  rw [toNat_roundAverage]
  exact ⟨(Nat.shiftRight_one _).symm, roundAverage_comm a b, by omega, by omega⟩

/-! ### The channel-swap identity -/

/-- The geometry with red and blue exchanged. -/
def TileGeometry.channelsSwapped (g : TileGeometry) : TileGeometry :=
  { redRow := g.blueRow, blueRow := g.redRow, redCol := g.blueCol, blueCol := g.redCol
    redIdx := g.blueIdx, blueIdx := g.redIdx }

/-- The swapped pattern's row of R83 is the pattern's own with red and blue exchanged (R101). -/
theorem deriveTile_swapRB (p : Pattern) : deriveTile (swapRB p) = (deriveTile p).channelsSwapped := by
  cases p <;> rfl

/-- ADVANCE treats the two channels alike (R103). -/
theorem advance_channelsSwapped (k : Nat) (g : TileGeometry) :
    advance k g.channelsSwapped = (advance k g).channelsSwapped := rfl

/-- In every row the swapped pattern's geometry is the pattern's own with red and blue exchanged (R164). -/
theorem rowGeometry_swapRB (p : Pattern) (k : Nat) :
    rowGeometry (swapRB p) k = (rowGeometry p k).channelsSwapped := by
  induction k with
  | zero => exact deriveTile_swapRB p
  | succ k ih => rw [rowGeometry, ih, advance_channelsSwapped, rowGeometry]

/-- Where the order of the reads does not matter, exchanging red and blue in the geometry exchanges them in the cell:
the two greens change places, and their mean is symmetric (R112). -/
theorem cell_channelsSwapped (read : Nat → Byte) (f : Frame) (g : TileGeometry) (i i' j : Nat) :
    cell (fun _ => read) f g.channelsSwapped i j =
      { r := (cell (fun _ => read) f g i' j).b, g := (cell (fun _ => read) f g i' j).g,
        b := (cell (fun _ => read) f g i' j).r } := by
  have hgreen : (cell (fun _ => read) f g.channelsSwapped i j).g = (cell (fun _ => read) f g i' j).g :=
    roundAverage_comm ..
  rw [← hgreen]
  rfl

/-- Settles O23: the swapped pattern exchanges red and blue in row k's geometry, and with them in the cell. -/
theorem channelSwapIdentityOfCells : Obligations.ChannelSwapIdentityOfCells := by
  unfold Obligations.ChannelSwapIdentityOfCells
  intro m f p k j i i' src
  rw [rowGeometry_swapRB]
  exact cell_channelsSwapped m.read f (rowGeometry p k) i i' j

end Sys2Proof.Machine

/-! ## One column pair of an RGB format

O26 to O31: every RGB sink stores two words of one size, so that one lemma about two words serves the ten formats; what
is left of each is its packer as a sum of fields (R120 to R130). -/

namespace Sys2Proof.Machine

/-! ### A pair step whose accesses are admitted -/

/-- A group of one pair is that pair (R172). -/
theorem groupWork_one (p : Params) (fmt : Format) (w : Work) : groupWork p fmt 1 w = pairWork p fmt w := by
  simp only [groupWork, ite_self]

/-- Moving the counters on does not fault an instance (R165). -/
theorem Engine.nextPair_not_faulted {e : Engine} (h : e.phase = .rows) : e.nextPair.phase ≠ .faulted := by
  unfold Engine.nextPair
  split_ifs <;> simp [h]

/-- A pair step makes every store of its sink, one after the other, and moves on (R165, R166). -/
theorem exec_pair_of_admitted {s : State} {n : Nat} {e : Engine} {fmt : Format} (pat : Pattern) (h : s.PairReady n e)
    (hw : ∀ x ∈ sink fmt e.frame e.k.toNat e.c.toNat (s.leftOf e) (s.rightOf e), canWrite s.params x.1 = true) :
    exec (jobInstr n pat fmt) s = .next (s.afterPair n e
      (writeList s.mem (sink fmt e.frame e.k.toNat e.c.toNat (s.leftOf e) (s.rightOf e)))) := by
  obtain ⟨he, hp, hone, -, hread⟩ := h
  rw [← s.pairCells_eq e fmt] at hw ⊢
  rw [exec_rows fmt pat he hp, rowsStep, hone, groupSize, groupWork_one]
  rcases pairWork_cases s.params fmt { eng := e, mem := s.mem, draws := s.draws } with
    ⟨-, -, hpair⟩ | ⟨-, before, x, after, hcells, -, hx, -⟩ | ⟨hrefused, -⟩
  · rw [hpair, commit_of_ok (Engine.nextPair_not_faulted (by simpa using hp))]
    rfl
  · have := hw x (by simp [hcells])
    rw [hx] at this; cases this
  · rw [hread] at hrefused; cases hrefused

/-! ### Two words -/

/-- After the stores of an RGB sink the two pixel words stand where the pair's pixels are, and every other byte is as it
was (R51, R120). -/
theorem read_writeList_sinkRgb {m : Memory} {bpp : Nat} {pack : Triple → Nat} {f : Frame} {k c : Nat} {l r : Triple}
    (hm : m.wf) (hlt : ∀ x ∈ sinkRgb bpp pack f k c l r, x.1 < 2 ^ 32) (a : Nat) :
    (writeList m (sinkRgb bpp pack f k c l r)).read a =
      twoWords bpp (pixAddr f bpp k c) (pack l) (pack r) m.read a := by
  have hstored : ∀ x ∈ sinkRgb bpp pack f k c l r, (writeList m (sinkRgb bpp pack f k c l r)).read x.1 = x.2 :=
    fun x hx => read_writeList_of_mem _ _ x hlt hm (sinkRgb_distinct ..) hx
  have hpow : ∀ i, 256 ^ i = 2 ^ (8 * i) := fun i => by rw [Nat.pow_mul]
  unfold twoWords
  split_ifs with hleft hright
  · obtain ⟨i, rfl⟩ := Nat.exists_eq_add_of_le hleft.1
    rw [Nat.add_sub_cancel_left, hpow]
    exact hstored (_, _) (mem_sinkRgb.mpr (.inl ⟨i, by omega, rfl⟩))
  · obtain ⟨i, rfl⟩ := Nat.exists_eq_add_of_le hright.1
    rw [Nat.sub_sub, Nat.add_sub_cancel_left, hpow]
    exact hstored (_, _) (mem_sinkRgb.mpr (.inr ⟨i, by omega, rfl⟩))
  · refine read_writeList_of_not_mem _ _ _ hlt hm fun x hx => ?_
    rcases mem_sinkRgb.mp hx with ⟨i, hi, rfl⟩ | ⟨i, hi, rfl⟩ <;> dsimp only <;> omega

/-- A pair step of a format whose sink stores the pixel word `word` (R120, R165). -/
theorem storesRgbPair_of_sink {fmt : Format} {bpp : Nat} {pack word : Triple → Nat} (hsink : sink fmt = sinkRgb bpp pack)
    (hword : ∀ t, pack t = word t) (s : State) (n : Nat) (e : Engine) (pat : Pattern) :
    StoresRgbPair (jobInstr n pat fmt) bpp word s n e := by
  obtain rfl : pack = word := funext hword
  intro hready hok
  have hw : ∀ x ∈ sink fmt e.frame e.k.toNat e.c.toNat (s.leftOf e) (s.rightOf e), canWrite s.params x.1 = true := by
    intro x hx
    rw [hsink] at hx
    rcases mem_sinkRgb.mp hx with ⟨i, hi, rfl⟩ | ⟨i, hi, rfl⟩
    · exact hok i (by omega)
    · dsimp only
      rw [Nat.add_assoc]
      exact hok (bpp + i) (by omega)
  have hlt := fun x hx => canWrite_lt (hw x hx)
  have hstep := exec_pair_of_admitted pat hready hw
  obtain ⟨-, -, -, hm, -⟩ := hready
  rw [hsink] at hstep hlt
  exact ⟨_, hstep, writeList_wf _ _ hlt hm, read_writeList_sinkRgb hm hlt⟩

/-! ### The formats -/

/-- Settles O26: the packer of ALPHA8 does not look at its triple (R121). -/
theorem alpha8PairIsOpaque : Obligations.Alpha8PairIsOpaque := by
  unfold Obligations.Alpha8PairIsOpaque
  exact storesRgbPair_of_sink (fmt := .alpha8) rfl fun _ => rfl

/-- Settles O27: four whole bytes, alpha first or last (R122, R125). -/
theorem rgb32PairsStoreTheirWords : Obligations.Rgb32PairsStoreTheirWords := by
  unfold Obligations.Rgb32PairsStoreTheirWords
  exact fun s n e p => ⟨storesRgbPair_of_sink (fmt := .argb8888) rfl packArgb8888_eq s n e p,
    storesRgbPair_of_sink (fmt := .rgba8888) rfl packRgba8888_eq s n e p⟩

/-- Settles O28: alpha in the top bits, the channels narrowed to four or to five bits (R123, R124). -/
theorem alphaFirst16BitPairsStoreTheirWords : Obligations.AlphaFirst16BitPairsStoreTheirWords := by
  unfold Obligations.AlphaFirst16BitPairsStoreTheirWords
  exact fun s n e p => ⟨storesRgbPair_of_sink (fmt := .argb4444) rfl packArgb4444_eq s n e p,
    storesRgbPair_of_sink (fmt := .argb1555) rfl packArgb1555_eq s n e p⟩

/-- Settles O29: alpha in the bottom bits, the channels narrowed to four or to five bits (R126, R127). -/
theorem alphaLast16BitPairsStoreTheirWords : Obligations.AlphaLast16BitPairsStoreTheirWords := by
  unfold Obligations.AlphaLast16BitPairsStoreTheirWords
  exact fun s n e p => ⟨storesRgbPair_of_sink (fmt := .rgba4444) rfl packRgba4444_eq s n e p,
    storesRgbPair_of_sink (fmt := .rgba5551) rfl packRgba5551_eq s n e p⟩

/-- Settles O30: no alpha, and green keeps six bits (R130). -/
theorem rgb565PairStoresItsWords : Obligations.Rgb565PairStoresItsWords := by
  unfold Obligations.Rgb565PairStoresItsWords
  exact storesRgbPair_of_sink (fmt := .rgb565) rfl packRgb565_eq

/-- Settles O31: BGR888 has the packer of RGB888; its triples are those of the swapped geometry (R128, R129). -/
theorem rgb24PairsStoreTheirWords : Obligations.Rgb24PairsStoreTheirWords := by
  unfold Obligations.Rgb24PairsStoreTheirWords
  exact fun s n e p => ⟨storesRgbPair_of_sink (fmt := .rgb888) rfl packRgb888_eq s n e p,
    storesRgbPair_of_sink (fmt := .bgr888) rfl packBgr888_eq s n e p⟩

end Sys2Proof.Machine

/-! ## Border replication

O40 and O43: one row copy of BORDER, and all of them from the first plane to the completion (R170, R171, R176). No row
that one plane's copy reads or writes is written by another's, since the planes follow each other in DstFP. -/

namespace Sys2Proof.Machine

/-- Settles O40: the copy of neighbouring rows ends, and BORDER moves on to the next plane. -/
theorem borderStepCopiesOneRow : Obligations.BorderStepCopiesOneRow := by
  unfold Obligations.BorderStepCopiesOneRow
  intro s n e p fmt r he hp hm hr hok
  obtain ⟨m, hcopy, hwf, hcopied, hout⟩ := copyRow_of_admitted (List.mem_of_getElem? hr) hm hok
  exact ⟨m, exec_border_copies p he hp hr hcopy, hwf, hcopied, hout⟩

/-! ### The rows of a plane list -/

/-- Where the row that a copy reads begins (R170). -/
def RowCopy.srcStart (r : RowCopy) : Nat := r.base + r.src * r.pitch

/-- Where the row that a copy writes begins (R170). -/
def RowCopy.dstStart (r : RowCopy) : Nat := r.base + r.dst * r.pitch

/-- The row copies `l` have taken `m` to `m'`: every row written holds what the row read held, the rows read are as they
were, and so is every byte outside the rows written (R170). -/
structure RowsCopied (l : List RowCopy) (m m' : Memory) : Prop where
  copied  : ∀ r ∈ l, ∀ i < r.pitch, m'.read (r.dstStart + i) = m.read (r.srcStart + i)
  kept    : ∀ r ∈ l, ∀ i < r.pitch, m'.read (r.srcStart + i) = m.read (r.srcStart + i)
  outside : ∀ a, (∀ r ∈ l, a < r.dstStart ∨ r.dstStart + r.pitch ≤ a) → m'.read a = m.read a

theorem rowsCopied_nil (m : Memory) : RowsCopied [] m m := ⟨by simp, by simp, fun _ _ => rfl⟩

/-- The next row begins where the row read ends. -/
theorem RowCopy.dstStart_eq {r : RowCopy} (h : r.dst = r.src + 1) : r.dstStart = r.srcStart + r.pitch := by
  rw [RowCopy.dstStart, RowCopy.srcStart, h, Nat.succ_mul, Nat.add_assoc]

/-- A copy into the next row, and then copies whose rows all lie above. -/
theorem RowsCopied.cons {r : RowCopy} {l : List RowCopy} {m m₁ m' : Memory} (hr : r.dstStart = r.srcStart + r.pitch)
    (habove : ∀ q ∈ l, r.dstStart + r.pitch ≤ q.srcStart ∧ q.srcStart ≤ q.dstStart)
    (hcopied : ∀ i < r.pitch, m₁.read (r.dstStart + i) = m.read (r.srcStart + i))
    (hout : ∀ a, (a < r.dstStart ∨ r.dstStart + r.pitch ≤ a) → m₁.read a = m.read a) (h : RowsCopied l m₁ m') :
    RowsCopied (r :: l) m m' := by
  have hbelow : ∀ a < r.dstStart + r.pitch, m'.read a = m₁.read a := fun a ha =>
    h.outside a fun q hq => .inl (by have := habove q hq; omega)
  have hsrc : ∀ q ∈ l, ∀ i, m₁.read (q.srcStart + i) = m.read (q.srcStart + i) := fun q hq i =>
    hout _ (.inr (by have := habove q hq; omega))
  refine ⟨List.forall_mem_cons.mpr ⟨fun i hi => ?_, fun q hq i hi => ?_⟩,
    List.forall_mem_cons.mpr ⟨fun i hi => ?_, fun q hq i hi => ?_⟩, fun a ha => ?_⟩
  · rw [hbelow _ (by omega), hcopied i hi]
  · rw [h.copied q hq i hi, hsrc q hq]
  · rw [hbelow _ (by omega), hout _ (.inl (by omega))]
  · rw [h.kept q hq i hi, hsrc q hq]
  · obtain ⟨har, hal⟩ := List.forall_mem_cons.mp ha
    rw [h.outside a hal, hout a har]

/-- In a frame of two rows or more every copy is into the next row (R131, R152). -/
theorem borderPlanes_dst_eq_succ {p : Params} {fmt : Format} {f : Frame} {r : RowCopy} (hH : 2 ≤ f.H)
    (hr : r ∈ borderPlanes p fmt f) : r.dst = r.src + 1 := by
  rcases borderPlanes_cases hr with ⟨base, pitch, rfl, -, -⟩ | ⟨hH', rfl, -⟩
  · simp only [lastRowCopy]; omega
  · dsimp only; omega

/-- The last row of a full-height plane ends where the plane ends. -/
theorem lastRowCopy_end {f : Frame} (hH : 2 ≤ f.H) (base pitch : Nat) :
    (lastRowCopy f base pitch).dstStart + pitch = base + pitch * f.H := by
  rw [RowCopy.dstStart, lastRowCopy, Nat.add_assoc, ← Nat.succ_mul, Nat.succ_eq_add_one,
    Nat.sub_add_cancel (by omega), Nat.mul_comm]

/-- The planes of BORDER follow each other: each copy ends at or below the base of every later plane (R131, R152). -/
theorem borderPlanes_ordered {p : Params} {fmt : Format} {f : Frame} (hH : 2 ≤ f.H) :
    (borderPlanes p fmt f).Pairwise fun r q => r.dstStart + r.pitch ≤ q.base := by
  have hend := fun base pitch => (lastRowCopy_end hH base pitch).le
  have htwo : 2 * f.W * f.H = f.W * f.H + f.W * f.H := by ring
  cases fmt
  case nv12 | nv21 =>
    simp only [borderPlanes, semiPlanes]
    split
    · exact List.pairwise_pair.mpr (hend _ _)
    · exact List.pairwise_singleton ..
  case i422 | i444 =>
    simp only [borderPlanes, List.pairwise_cons, List.forall_mem_cons, List.not_mem_nil, false_imp_iff, implies_true,
      and_true, List.Pairwise.nil]
    refine ⟨⟨hend _ _, (hend _ _).trans ?_⟩, (hend _ _).trans ?_⟩ <;> simp only [lastRowCopy] <;> omega
  all_goals exact List.pairwise_singleton ..

/-! ### All planes -/

/-- Every access of a row copy lies in the data space, so a platform that admits every access admits it (R50, R58). -/
theorem borderPlanes_admitted {p q : Params} {fmt : Format} {f : Frame} {r : RowCopy} (hfits : FrameFits q fmt f)
    (hadm : p.AdmitsAll) (hr : r ∈ borderPlanes q fmt f) :
    ∀ j < r.pitch, canRead p (r.srcStart + j) = true ∧ canWrite p (r.dstStart + j) = true := by
  have hdst := hfits.dst
  have hrow := RowCopy.dstStart_eq (borderPlanes_dst_eq_succ hfits.twoH hr)
  have hend : r.dstStart + r.pitch ≤ f.D + formatSize fmt f := by
    rw [RowCopy.dstStart, Nat.add_assoc]
    exact (borderPlanes_in_footprint (by have := hfits.twoH; omega) hr).2
  exact fun j hj => ⟨(hadm _ (by omega)).1, (hadm _ (by omega)).2⟩

/-- One step of BORDER for each plane of the list that is left (R169, R170). -/
theorem execTimes_border_copies {fmt : Format} {n : Nat} (pat : Pattern) (l : List RowCopy) {s : State} {e : Engine}
    (hfits : FrameFits s.params fmt e.frame) (hadm : s.params.AdmitsAll) (he : s.insts[n]? = some e)
    (hp : e.phase = .border) (hm : s.mem.wf) (hleft : (borderPlanes s.params fmt e.frame).drop e.plane = l) :
    ∃ m : Memory, execTimes (jobInstr n pat fmt) l.length s =
        .next { s with insts := s.insts.set n { e with plane := e.plane + l.length }, mem := m } ∧
      RowsCopied l s.mem m := by
  induction l generalizing s e with
  | nil => exact ⟨s.mem, congrArg Host.Outcome.next (State.setInst_self s n e he).symm, rowsCopied_nil _⟩
  | cons r l ih =>
    have hr : (borderPlanes s.params fmt e.frame)[e.plane]? = some r := by
      rw [← Nat.add_zero e.plane, ← List.getElem?_drop, hleft]; rfl
    have hnext : (borderPlanes s.params fmt e.frame).drop (e.plane + 1) = l := by
      rw [← List.drop_drop, hleft]; rfl
    have hmem : ∀ q ∈ r :: l, q ∈ borderPlanes s.params fmt e.frame := fun q hq => List.mem_of_mem_drop (hleft ▸ hq)
    have hrow := fun q hq => RowCopy.dstStart_eq (borderPlanes_dst_eq_succ hfits.twoH (hmem q hq))
    have hordered : (r :: l).Pairwise fun r q => r.dstStart + r.pitch ≤ q.base :=
      hleft ▸ (borderPlanes_ordered hfits.twoH).drop
    obtain ⟨m₁, hcopy, hm₁, hcopied, hout⟩ := copyRow_of_admitted (List.mem_of_getElem? hr) hm
      (borderPlanes_admitted hfits hadm (List.mem_of_getElem? hr))
    obtain ⟨m, hrun, hl⟩ := ih (s := { s with insts := s.insts.set n { e with plane := e.plane + 1 }, mem := m₁ })
      (e := { e with plane := e.plane + 1 }) hfits hadm (getElem?_set_of_some _ he) hp hm₁ hnext
    refine ⟨m, ?_, hl.cons (hrow r (by simp)) (fun q hq => ⟨?_, ?_⟩) hcopied hout⟩
    · rw [List.length_cons, execTimes_succ _ (exec_border_copies pat he hp hr hcopy), hrun, List.set_set,
        ← Nat.add_assoc, Nat.add_right_comm]
    · exact (List.rel_of_pairwise_cons hordered hq).trans (Nat.le_add_right ..)
    · rw [hrow q (by simp [hq])]; exact Nat.le_add_right ..

/-- Settles O43: the row copies of all planes, none of which touches another's rows, and the completion, which finds no
byte to draw. -/
theorem borderReplicatesTheLastRow : Obligations.BorderReplicatesTheLastRow := by
  unfold Obligations.BorderReplicatesTheLastRow
  intro s n e p fmt hinv he hfmt hp hplane hadm hr hc
  obtain ⟨-, -, hjob, -⟩ := hinv.of_getElem? he
  obtain ⟨fmt', hfmt', hfits⟩ := Engine.frameFits_of_jobValid (hjob (.inr hp))
  obtain rfl : fmt' = fmt := Option.some.inj (hfmt'.symm.trans hfmt)
  obtain ⟨m, hrun, hrows⟩ := execTimes_border_copies p (borderPlanes s.params fmt' e.frame) hfits hadm he hp
    hinv.1 (by rw [hplane, List.drop_zero])
  refine ⟨m, ?_, fun r hmem i hi => ⟨hrows.copied r hmem i hi, hrows.kept r hmem i hi⟩, hrows.outside⟩
  have hcompleted := completionReportsSuccess
    { s with insts := s.insts.set n { e with plane := (borderPlanes s.params fmt' e.frame).length }, mem := m } n
    { e with plane := (borderPlanes s.params fmt' e.frame).length } p fmt' (getElem?_set_of_some _ he) hp le_rfl hr hc
  rw [hplane, Nat.zero_add] at hrun
  rw [execTimes_add 1 hrun, execTimes_succ 0 hcompleted]
  simp only [execTimes, List.set_set]

end Sys2Proof.Machine

/-! ## One column pair of a YUV layout

O25 and O32 to O36: the colour conversion, and the eight layouts. No sink stores a byte twice in a frame that VALIDATE
let pass (`sink_distinct`), so that one lemma about the sink's stores serves them all (R140 to R151). -/

namespace Sys2Proof.Machine

/-! ### The colour conversion -/

/-- A value between 0 and 255 is stored as it is: no clamp is needed (R140). -/
theorem toNat_ofInt_byte {x : Int} (h0 : 0 ≤ x) (h : x < 256) : ((BitVec.ofInt 8 x).toNat : Int) = x := by
  rw [BitVec.toNat_ofInt]
  omega

/-- Settles O25: each channel lies between 0 and 255, which bounds the three sums and with them the stored bytes. -/
theorem yuvConversionFitsAByte : Obligations.YuvConversionFitsAByte := by
  unfold Obligations.YuvConversionFitsAByte
  intro t R G B y u v
  have hR : 0 ≤ R ∧ R ≤ 255 := by have := t.r.isLt; omega
  have hG : 0 ≤ G ∧ G ≤ 255 := by have := t.g.isLt; omega
  have hB : 0 ≤ B ∧ B ≤ 255 := by have := t.b.isLt; omega
  have hy : 128 ≤ y ∧ y ≤ 56228 := by omega
  have hu : -28432 ≤ u ∧ u ≤ 28688 := by omega
  have hv : -28432 ≤ v ∧ v ≤ 28688 := by omega
  have hluma : ((luma t).toNat : Int) = y / 256 + 16 :=
    toNat_ofInt_byte (x := y / 256 + 16) (by omega) (by omega)
  have hchromaU : ((chromaU t).toNat : Int) = u / 256 + 128 :=
    toNat_ofInt_byte (x := u / 256 + 128) (by omega) (by omega)
  have hchromaV : ((chromaV t).toNat : Int) = v / 256 + 128 :=
    toNat_ofInt_byte (x := v / 256 + 128) (by omega) (by omega)
  simp only [Int.fdiv_eq_ediv_of_nonneg _ (show (0 : Int) ≤ 256 by decide)]
  exact ⟨⟨hy.1, hy.2, hu.1, hu.2, hv⟩, ⟨hluma, by omega, by omega⟩, ⟨hchromaU, by omega, by omega⟩,
    ⟨hchromaV, by omega, by omega⟩⟩

/-! ### The stores of a layout -/

/-- A pair step of a job that VALIDATE let pass leaves every byte its sink stores where the sink puts it, and nothing
else (R165). -/
theorem storesYuvPair_of_sink {s : State} {e : Engine} {fmt : Format} {cells : List Host.Cell}
    (hsink : sink fmt e.frame e.k.toNat e.c.toNat (s.leftOf e) (s.rightOf e) = cells) (n : Nat) (pat : Pattern) :
    StoresYuvPair (jobInstr n pat fmt) s n e cells := by
  subst hsink
  intro hready hinv hw
  have hstep := exec_pair_of_admitted pat hready hw
  obtain ⟨-, hp, -, hm, -⟩ := hready
  obtain ⟨_, -, hrow⟩ := hinv.rowReady hp
  have hlt := fun x hx => canWrite_lt (hw x hx)
  have hdistinct := sink_distinct (fmt := fmt) hrow.pairInFrame (s.leftOf e) (s.rightOf e)
  exact ⟨_, hstep, writeList_wf _ _ hlt hm, fun x hx => read_writeList_of_mem _ _ x hlt hm hdistinct hx,
    fun a ha => read_writeList_of_not_mem _ _ a hlt hm ha⟩

/-- The 4:2:0 layouts store their chroma after the luma on even rows alone (R141). -/
theorem append_onEvenRow (ys cells : List Host.Cell) (k : Nat) :
    ys ++ onEvenRow k cells = if k % 2 = 0 then ys ++ cells else ys := by
  unfold onEvenRow
  split
  · rfl
  · exact List.append_nil ys

/-! ### The layouts -/

/-- Settles O32: the two chroma planes of YV12 and of I420 differ in their order alone (R144, R145). -/
theorem planar420PairsStoreTheirBytes : Obligations.Planar420PairsStoreTheirBytes := by
  unfold Obligations.Planar420PairsStoreTheirBytes
  exact fun s n e p => ⟨storesYuvPair_of_sink (fmt := .yv12) (append_onEvenRow ..) n p,
    storesYuvPair_of_sink (fmt := .i420) (append_onEvenRow ..) n p⟩

/-- Settles O33: the interleaved chroma bytes of NV12 and of NV21 differ in their order alone (R146, R147). -/
theorem semiPlanar420PairsStoreTheirBytes : Obligations.SemiPlanar420PairsStoreTheirBytes := by
  unfold Obligations.SemiPlanar420PairsStoreTheirBytes
  exact fun s n e p => ⟨storesYuvPair_of_sink (fmt := .nv12) (append_onEvenRow ..) n p,
    storesYuvPair_of_sink (fmt := .nv21) (append_onEvenRow ..) n p⟩

/-- Settles O34: the sink of I422 stores chroma on every row (R148). -/
theorem i422PairStoresItsBytes : Obligations.I422PairStoresItsBytes := by
  unfold Obligations.I422PairStoresItsBytes
  exact fun s n e p => storesYuvPair_of_sink (fmt := .i422) rfl n p

/-- Settles O35: the four bytes of a macropixel follow each other (R149, R150). -/
theorem packed422PairsStoreTheirMacropixels : Obligations.Packed422PairsStoreTheirMacropixels := by
  unfold Obligations.Packed422PairsStoreTheirMacropixels
  exact fun s n e p => ⟨storesYuvPair_of_sink (fmt := .uyvy) rfl n p, storesYuvPair_of_sink (fmt := .yuy2) rfl n p⟩

/-- Settles O36: the sink of I444 stores the chroma of both pixels (R151). -/
theorem i444PairStoresItsBytes : Obligations.I444PairStoresItsBytes := by
  unfold Obligations.I444PairStoresItsBytes
  exact fun s n e p => storesYuvPair_of_sink (fmt := .i444) rfl n p

end Sys2Proof.Machine

/-! ## START and VALIDATE

O10, O16 and O17: the START acceptance (R160), the fault predicates of VALIDATE as statements about numbers (R162), and
the entry to ROWS of a job that violates none (R163). -/

namespace Sys2Proof.Machine

/-- Settles O10: the write of CTRL that is a START is `acceptStart`, and any other stores IRQ_EN alone. -/
theorem startAcceptedExactlyWhenIdle : Obligations.StartAcceptedExactlyWhenIdle := by
  unfold Obligations.StartAcceptedExactlyWhenIdle
  intro s n e w he
  refine ⟨fun ⟨hw, hb⟩ => ?_, fun hother => execWrCtrl_irqEn he fun ⟨hw, hb⟩ => ?_⟩
  · refine ⟨_, _, execWrCtrl_start he hw hb, acceptStart_length .., acceptStart_self _ he, fun m d hm hd => ?_⟩
    obtain ⟨gps, hnoted, hidle⟩ := noteClash_cases s.params ({ e with irqEn := w.getLsbD 1 }.footprint s.params) d
    refine ⟨gps, (acceptStart_other _ s hm).trans ?_, hidle⟩
    rw [hd, Option.map_some, hnoted]
  · rw [hw, hb] at hother
    simp at hother

/-! ### The four predicates -/

/-- Two runs of bytes meet exactly if they share a byte. -/
theorem spansMeet_iff {a n b m : Nat} :
    spansMeet a n b m = true ↔ ∃ c < m, a ≤ b + c ∧ b + c < a + n := by
  simp only [spansMeet, decide_eq_true_eq]
  constructor
  · rintro ⟨hab, hba, hn, hm⟩
    exact ⟨a - b, by omega, by omega, by omega⟩
  · rintro ⟨c, hc, hle, hlt⟩
    omega

/-- F_OVERLAP: a byte of RawFP, by row and column, lies in DstFP (R57, R58, R162). -/
theorem overlapViolated_iff {p : Params} {fmt : Format} {f : Frame} :
    overlapViolated p fmt f = true ↔ ∃ r c, r < f.H ∧ c < rawCols p f ∧
      f.D ≤ f.A + r * f.P + c ∧ f.A + r * f.P + c < f.D + formatSize fmt f := by
  simp only [overlapViolated, Footprint.dstMeetsRaw, footprintOf, List.any_eq_true, List.mem_range, spansMeet_iff]
  exact ⟨fun ⟨r, hr, c, hc, h⟩ => ⟨r, c, hr, hc, h⟩, fun ⟨r, c, hr, hc, h⟩ => ⟨r, hr, c, hc, h⟩⟩

/-- F_WRAP of a frame that holds at least one column: the last byte of a footprint lies above 2^32 - 1 (R58, R162). -/
theorem wrapViolated_iff {p : Params} {fmt : Format} {f : Frame} (hW : f.W ≠ 0) :
    wrapViolated p fmt f = true ↔
      f.D + formatSize fmt f > 2 ^ 32 ∨ f.A + (f.H - 1) * f.P + (rawCols p f - 1) ≥ 2 ^ 32 := by
  have hcols : 1 ≤ rawCols p f := by rw [rawCols_eq]; split_ifs <;> omega
  rw [wrapViolated, decide_eq_true_eq]
  refine or_congr Iff.rfl ?_
  omega

/-- What each flag of VALIDATE's fault set says (R162). -/
theorem violations_geometry_iff {p : Params} {fmt : Format} {f : Frame} :
    (violations p fmt f).geometry = true ↔ f.W % 2 = 1 ∨ f.H % 2 = 1 ∨ f.W = 0 ∨ f.H = 0 := decide_eq_true_iff

theorem violations_stride_iff {p : Params} {fmt : Format} {f : Frame} :
    (violations p fmt f).stride = true ↔ f.P < f.W := decide_eq_true_iff

theorem violations_wrap_iff {p : Params} {fmt : Format} {f : Frame} :
    (violations p fmt f).wrap = true ↔ ¬(violations p fmt f).geometry = true ∧
      (f.D + formatSize fmt f > 2 ^ 32 ∨ f.A + (f.H - 1) * f.P + (rawCols p f - 1) ≥ 2 ^ 32) := by
  refine (Bool.and_eq_true_iff.trans (and_congr_left' (by simp [violations]))).trans (and_congr_right fun hgeo => ?_)
  exact wrapViolated_iff fun hW => hgeo (violations_geometry_iff.mpr (.inr (.inr (.inl hW))))

theorem violations_overlap_iff {p : Params} {fmt : Format} {f : Frame} :
    (violations p fmt f).overlap = true ↔ ¬(violations p fmt f).geometry = true ∧
      ∃ r c, r < f.H ∧ c < rawCols p f ∧
        f.D ≤ f.A + r * f.P + c ∧ f.A + r * f.P + c < f.D + formatSize fmt f :=
  Bool.and_eq_true_iff.trans (and_congr (by simp [violations]) overlapViolated_iff)

/-- VALIDATE records a fault exactly when one of the four predicates holds: it does not look for F_MEM (R161). -/
theorem violations_ne_empty_iff {p : Params} {fmt : Format} {f : Frame} :
    violations p fmt f ≠ FaultSet.empty ↔ (violations p fmt f).geometry = true ∨ (violations p fmt f).stride = true ∨
      (violations p fmt f).wrap = true ∨ (violations p fmt f).overlap = true := by
  simp only [ne_eq, violations, FaultSet.empty, FaultSet.mk.injEq, and_true, not_and_or, Bool.not_eq_false]

/-! ### What VALIDATE makes of them -/

/-- VALIDATE of a job with both references and some violation records the violations, and the instance is FAULTED (R161,
R214). -/
theorem validateStep_of_violated {s : State} {n : Nat} {e : Engine} {fmt : Format} (pat : Pattern)
    (hraw : e.rawAddr ≠ 0) (hdst : e.dstAddr ≠ 0) (h : violations s.params fmt e.frame ≠ FaultSet.empty) :
    validateStep fmt n pat e s = raiseFaults n (violations s.params fmt e.frame) e s := by
  have hnull : ¬e.nullRef = true := fun hnull => (of_decide_eq_true hnull).elim hraw hdst
  rw [validateStep, if_neg hnull, if_neg h]

/-- Settles O16: the set recorded is `violations`, whose flags are the four predicates. -/
theorem validationRecordsEveryViolation : Obligations.ValidationRecordsEveryViolation := by
  unfold Obligations.ValidationRecordsEveryViolation
  intro s n e p fmt he hp hraw hdst A P W H D size cols geo wrap overlap hviolated
  have hcols : rawCols s.params e.frame = cols := rawCols_eq ..
  have hgeo : (violations s.params fmt e.frame).geometry = true ↔ geo := violations_geometry_iff
  have hstride : (violations s.params fmt e.frame).stride = true ↔ P < W := violations_stride_iff
  have hwrap : (violations s.params fmt e.frame).wrap = true ↔ wrap := by
    rw [violations_wrap_iff, hgeo, hcols]; rfl
  have hoverlap : (violations s.params fmt e.frame).overlap = true ↔ overlap := by
    rw [violations_overlap_iff, hgeo, hcols]; rfl
  have hsome : violations s.params fmt e.frame ≠ FaultSet.empty :=
    violations_ne_empty_iff.mpr (hviolated.imp hgeo.mpr (.imp hstride.mpr (.imp hwrap.mpr hoverlap.mpr)))
  exact ⟨_, hgeo, hstride, hwrap, hoverlap, rfl,
    (exec_validate fmt p he hp).trans (congrArg _ (validateStep_of_violated p hraw hdst hsome))⟩

/-- Settles O17: none of the four predicates holds, so VALIDATE enters ROWS. -/
theorem validJobEntersRows : Obligations.ValidJobEntersRows := by
  unfold Obligations.ValidJobEntersRows
  intro s n e p fmt he hp hraw hdst A P W H D size cols hWe hHe hW hH hP hdstEnd hrawEnd hdisjoint
  have hcols : rawCols s.params e.frame = cols := rawCols_eq ..
  have hok : violations s.params fmt e.frame = FaultSet.empty := by
    by_contra hsome
    rcases violations_ne_empty_iff.mp hsome with hgeo | hstride | hwrap | hoverlap
    · have : W % 2 = 1 ∨ H % 2 = 1 ∨ W = 0 ∨ H = 0 := violations_geometry_iff.mp hgeo
      omega
    · exact absurd hP (not_le.mpr (violations_stride_iff.mp hstride))
    · obtain ⟨-, hend⟩ := violations_wrap_iff.mp hwrap
      have : D + size > 2 ^ 32 ∨ A + (H - 1) * P + (cols - 1) ≥ 2 ^ 32 := hcols ▸ hend
      have hcols2 : 2 ≤ cols := by simp only [cols]; split_ifs <;> omega
      omega
    · obtain ⟨-, r, c, hr, hc, hin⟩ := violations_overlap_iff.mp hoverlap
      exact hdisjoint r c hr (hcols ▸ hc) hin
  exact (exec_validate fmt p he hp).trans (congrArg _ (validateStep_of_startable p ⟨hraw, hdst, hok⟩))

end Sys2Proof.Machine

/-! ## Groups of pairs

O39: a group is its enabled lanes, one after the other (R172, R173, R174). -/

namespace Sys2Proof.Machine

/-! ### GROUP_PAIRS is no operand of a pair -/

section
variable (p : Params) (g : GroupPairs)

/-- MemAdmit does not depend on GROUP_PAIRS (R50). -/
theorem storeAll_groupPairs (m : Memory) (l : List Host.Cell) :
    storeAll { p with groupPairs := g } m l = storeAll p m l := by
  induction l generalizing m with
  | nil => rfl
  | cons x l ih =>
    simp only [storeAll, ih]
    rfl

/-- A pair asks the parameters for EDGE_RIGHT and MemAdmit alone (R165). -/
theorem pairWork_groupPairs (fmt : Format) (w : Work) :
    pairWork { p with groupPairs := g } fmt w = pairWork p fmt w := by
  simp only [pairWork, storeAll_groupPairs]
  rfl

/-- So of a group GROUP_PAIRS is the number of lanes alone (R172). -/
theorem groupWork_groupPairs (fmt : Format) (lanes : Nat) (w : Work) :
    groupWork { p with groupPairs := g } fmt lanes w = groupWork p fmt lanes w := by
  induction lanes generalizing w with
  | zero => rfl
  | succ lanes ih => simp only [groupWork, pairWork_groupPairs, ih]

end

/-! ### Steps of single pairs -/

/-- A FAULTED instance takes no further step (R214). -/
theorem exec_faulted {s : State} {n : Nat} {e : Engine} (fmt : Format) (pat : Pattern) (he : s.insts[n]? = some e)
    (hp : e.phase = .faulted) : exec (jobInstr n pat fmt) s = .next s := by
  rw [exec_jobInstr, driverStep_some _ _ he, hp]

/-- An operation that changes nothing changes nothing when taken again. -/
theorem execTimes_of_fixed {i : Instr} {s : State} (h : exec i s = .next s) (k : Nat) : execTimes i k s = .next s := by
  induction k with
  | zero => rfl
  | succ k ih => rw [execTimes_succ k h, ih]

/-- Committing the work that the state holds already changes nothing. -/
theorem commit_self {s : State} {n : Nat} {e : Engine} (he : s.insts[n]? = some e) (hok : e.phase ≠ .faulted) :
    s.commit n { eng := e, mem := s.mem, draws := s.draws } = s :=
  (commit_of_ok hok).trans (State.setInst_self s n e he)

/-- A commit does not look at the parameters. -/
theorem commit_withParams (s : State) (p : Params) (n : Nat) (w : Work) :
    State.commit { s with params := p } n w = { s.commit n w with params := p } := by
  unfold State.commit
  split_ifs <;> rfl

section
variable {s : State} {n : Nat} {e : Engine} {w : Work}

/-- The instance of a state that has just been committed. -/
theorem commit_getElem?_self (w : Work) (he : s.insts[n]? = some e) : (s.commit n w).insts[n]? = some w.eng := by
  rw [State.commit_insts]
  exact getElem?_set_of_some _ he

/-- With GROUP_PAIRS = 1 a step of ROWS is one pair (R165). -/
theorem exec_commit_pair (fmt : Format) (pat : Pattern) (hone : s.params.groupPairs = .one)
    (he : s.insts[n]? = some e) (hp : w.eng.phase = .rows) :
    exec (jobInstr n pat fmt) (s.commit n w) = .next (s.commit n (pairWork s.params fmt w)) := by
  have hok : w.eng.phase ≠ .faulted := by simp [hp]
  rw [exec_rows fmt pat (commit_getElem?_self w he) hp, rowsStep, State.commit_params, hone, groupSize, groupWork_one,
    State.commit_mem, State.commit_draws, commit_commit hok]

/-- The steps of the enabled lanes of a group, one pair each, do what the group does: up to the end of the row, or to
the first refused access, after which the instance takes no step (R172, R173, assumption 13). -/
theorem execTimes_pairs {fmt fmt' : Format} {q : Params} (pat : Pattern) (hone : s.params.groupPairs = .one)
    (he : s.insts[n]? = some e) (lanes : Nat) {w : Work} (hp : w.eng.phase = .rows) (hready : w.eng.RowReady q fmt') :
    execTimes (jobInstr n pat fmt) (min lanes ((w.eng.width.toNat - w.eng.c.toNat) / 2)) (s.commit n w) =
      .next (s.commit n (groupWork s.params fmt lanes w)) := by
  induction lanes generalizing w with
  | zero => rw [Nat.zero_min]; rfl
  | succ lanes ih =>
    obtain ⟨-, hc, hce, -⟩ := w.eng.rowsValid_iff.mp hready.rows
    have hWe : w.eng.width.toNat % 2 = 0 := hready.fits.evenW
    have hcount : min (lanes + 1) ((w.eng.width.toNat - w.eng.c.toNat) / 2) =
        min lanes ((w.eng.width.toNat - (w.eng.c.toNat + 2)) / 2) + 1 := by omega
    rw [hcount, execTimes_succ _ (exec_commit_pair fmt pat hone he hp)]
    by_cases hf : (pairWork s.params fmt w).eng.phase = .faulted
    · rw [groupWork_of_faulted (Nat.succ_pos lanes) hf]
      exact execTimes_of_fixed (exec_faulted fmt pat (commit_getElem?_self _ he) hf) _
    · rcases pairWork_counters s.params fmt w hready.rows hf hp with ⟨-, hv, -, hc'⟩ | ⟨hlast, hend⟩
      · have hne : (pairWork s.params fmt w).eng.c ≠ 0 := fun h0 => by rw [h0] at hc'; simp at hc'
        have hW : (pairWork s.params fmt w).eng.width = w.eng.width := by
          obtain ⟨_, _, _, _, _, hsame⟩ := pairWork_sameJob s.params fmt w
          rw [hsame]
        rw [groupWork, if_pos ⟨hv, hne⟩, ← hc', ← hW]
        exact ih hv (hready.pairWork hp hv)
      · have hstop : ¬((pairWork s.params fmt w).eng.phase = .rows ∧ (pairWork s.params fmt w).eng.c ≠ 0) := by
          rcases hend with ⟨-, -, -, hc'⟩ | ⟨-, hv, -⟩
          · simp [hc']
          · simp [hv]
        rw [groupWork, if_neg hstop, show (w.eng.width.toNat - (w.eng.c.toNat + 2)) / 2 = 0 by omega, Nat.min_zero]
        rfl

end

/-- Settles O39: both sides are the group's work, of which GROUP_PAIRS is the number of lanes alone. -/
theorem groupStepEqualsPairSteps : Obligations.GroupStepEqualsPairSteps := by
  unfold Obligations.GroupStepEqualsPairSteps
  intro s t n e p fmt he hinv hp h
  obtain ⟨fmt', -, hready⟩ := hinv.rowReady hp
  obtain rfl := Host.Outcome.next.inj ((exec_rows fmt p he hp).symm.trans h)
  have hpairs := execTimes_pairs (s := { s with params := { s.params with groupPairs := .one } }) (fmt := fmt) p rfl he
    (groupSize s.params.groupPairs) (w := { eng := e, mem := s.mem, draws := s.draws }) hp hready
  have hself := commit_self (s := { s with params := { s.params with groupPairs := .one } }) he (by simp [hp])
  rw [hself, groupWork_groupPairs, commit_withParams] at hpairs
  rw [rowsStep, State.commit_params]
  exact hpairs

end Sys2Proof.Machine

/-! ## A job that does not fault

O44: after the steps that R177 counts up to BORDER (`execTimes_to_border`), the row copies and the completion. -/

namespace Sys2Proof.Machine

/-- A copy whose accesses are all admitted ends, whatever the data space holds (R170). -/
theorem copyBytes_completes {p : Params} {src dst : Nat} (m : Memory) (i n : Nat)
    (h : ∀ j, j < i + n → canRead p (src + j) = true ∧ canWrite p (dst + j) = true) :
    (copyBytes p src dst m i n).2 = true := by
  induction n generalizing m i with
  | zero => rfl
  | succ n ih =>
    obtain ⟨hr, hw⟩ := h i (by omega)
    rw [copyBytes, hr, hw]
    exact ih _ _ fun j hlt => h j (by omega)

section
variable {s : State} {n : Nat} {e : Engine} {fmt : Format}

/-- A step of BORDER with a plane left is that plane's row copy (R169, R170). -/
theorem exec_commit_copy {w : Work} {r : RowCopy} (pat : Pattern) (he : s.insts[n]? = some e)
    (hp : w.eng.phase = .border) (hr : (borderPlanes s.params fmt w.eng.frame)[w.eng.plane]? = some r) :
    exec (jobInstr n pat fmt) (s.commit n w) = .next (s.commit n (copyWork s.params r w)) := by
  have hok : w.eng.phase ≠ .faulted := by simp [hp]
  rw [exec_border fmt pat (commit_getElem?_self w he) hp, borderStep, State.commit_params, hr]
  dsimp only
  rw [State.commit_mem, State.commit_draws, commit_commit hok]

/-- One step of BORDER for each plane that is left, whatever the data space holds (R169, R170). -/
theorem execTimes_border_planes (pat : Pattern) (hadm : s.params.AdmitsAll) (he : s.insts[n]? = some e) (left : Nat)
    {w : Work} (hfits : FrameFits s.params fmt w.eng.frame) (hp : w.eng.phase = .border)
    (hleft : w.eng.plane + left = (borderPlanes s.params fmt w.eng.frame).length) :
    ∃ v : Work, execTimes (jobInstr n pat fmt) left (s.commit n w) = .next (s.commit n v) ∧ v.eng.SameJob w.eng ∧
      v.eng.phase = .border ∧ v.eng.plane = w.eng.plane + left := by
  induction left generalizing w with
  | zero => exact ⟨w, rfl, .refl _, hp, rfl⟩
  | succ left ih =>
    have hr := List.getElem?_eq_getElem (l := borderPlanes s.params fmt w.eng.frame) (i := w.eng.plane) (by omega)
    have hok := borderPlanes_admitted hfits hadm (List.mem_of_getElem? hr)
    rw [execTimes_succ _ (exec_commit_copy pat he hp hr)]
    rcases copyWork_cases s.params _ w with ⟨-, hcopy⟩ | ⟨hrefused, -⟩
    · have hleft' : w.eng.plane + 1 + left = (borderPlanes s.params fmt w.eng.frame).length := by omega
      rw [hcopy]
      obtain ⟨v, hrun, hsame, hvp, hplane⟩ := ih
        (w := { w with eng := { w.eng with plane := w.eng.plane + 1 }, mem := _ }) hfits hp hleft'
      exact ⟨v, hrun, hsame.trans ⟨_, _, _, _, _, rfl⟩, hvp, by rw [hplane, Nat.add_assoc, Nat.add_comm 1]⟩
    · have hdone := copyBytes_completes w.mem 0 _ fun j hj => hok j (by simpa using hj)
      exact absurd (hdone.symm.trans hrefused) (by decide)

end

/-- Settles O44: the counted steps to BORDER, one for each plane, and the completion, which finds the registers as START
left them. -/
theorem validJobCompletesInCountedSteps : Obligations.ValidJobCompletesInCountedSteps := by
  unfold Obligations.ValidJobCompletesInCountedSteps
  intro s n e p fmt he hphase hstart hadm
  obtain ⟨w, hrows, hwp, hwplane, hwsame, -⟩ := execTimes_to_border (P := fun _ => True) (n := n) p he hphase hstart
    hadm (fun _ _ _ _ => trivial) trivial
  have hframe : w.eng.frame = e.frame := hwsame.frame
  obtain ⟨v, hcopies, hvsame, hvp, hplane⟩ := execTimes_border_planes p hadm he
    (borderPlanes s.params fmt e.frame).length (hframe ▸ frameFits_of_violations_empty hstart.2.2) hwp
    (by rw [hwplane, hframe, Nat.zero_add])
  have hdone : exec (jobInstr n p fmt) (s.commit n v) =
      .next (complete .success (some fmt) n v.eng (s.commit n v)) := by
    rw [exec_border fmt p (commit_getElem?_self v he) hvp, borderStep_of_done]
    rw [State.commit_params, hvsame.frame, hframe, hplane, hwplane, Nat.zero_add]
  refine ⟨complete .success (some fmt) n v.eng (s.commit n v),
    { v.eng.completed .success with raced := false, clash := [] }, ?_, ?_, rfl, rfl, rfl, rfl, ?_⟩
  · exact (execTimes_add 1 ((execTimes_add _ hrows).trans hcopies)).trans (execTimes_succ 0 hdone)
  · rw [complete_eq]
    simp only [State.commit_insts, List.set_set]
  · obtain ⟨_, _, _, _, _, hv⟩ := hvsame.trans hwsame
    rw [complete_eq, hv]
    simp [State.commit_faults, hvp, Engine.frame]

end Sys2Proof.Machine

/-! ## START right after reset

O56: the reset registers hold two absent references, and a frame of no byte overlaps nothing (R210, R230, R233). -/

namespace Sys2Proof.Machine

/-- A job whose frame has no raw row and no destination byte overlaps no other (R70). -/
theorem not_overlaps_of_empty {fp : Footprint} (gp : Footprint) (hrows : fp.rows = 0) (hsize : fp.dstSize = 0) :
    fp.overlaps gp = false := by
  simp [Footprint.overlaps, Footprint.dstMeetsRaw, Footprint.dstMeetsDst, spansMeet, hrows, hsize]

/-- The START of such a job notes no overlap, on either side (R70, R160). -/
theorem acceptStart_of_empty {s : State} {n : Nat} {e : Engine} (hrows : (e.footprint s.params).rows = 0)
    (hsize : (e.footprint s.params).dstSize = 0) :
    acceptStart n e s = s.setInst n { e.started with raced := false, clash := [] } := by
  have hmeets : ∀ d : Engine, d.meets s.params (e.footprint s.params) = false := fun d => by
    rw [Engine.meets, not_overlaps_of_empty _ hrows hsize, Bool.and_false]
  have hnote : Engine.noteClash s.params (e.footprint s.params) = id := funext fun d => by
    rw [Engine.noteClash, hmeets]; rfl
  have hothers : s.insts.filter (Engine.meets s.params (e.footprint s.params)) = [] :=
    List.filter_eq_nil_iff.mpr fun d _ => by simp [hmeets]
  simp only [acceptStart, hnote, hothers, List.map_id, List.map_nil]
  rfl

/-- The registers of a reset instance after a START that stores `irqEn`. -/
def Engine.resetStarted (base : Word) (irqEn : Bool) : Engine :=
  { Engine.reset base with irqEn := irqEn, busy := true, phase := .validate }

/-- The write of CTRL that starts a reset instance (R160, R182). -/
theorem step_starts_reset {s : State} {n : Nat} {base w : Word} {rest : List Move}
    (he : s.insts[n]? = some (Engine.reset base)) (hroute : routeFrom base 0 s.insts = some (n, 0))
    (hw : w.getLsbD 0 = true)
    (hagenda : s.agenda = .host (.transact { write := true, addr := base, size := 4, wdata := w }) :: rest) :
    step s = .next ((s.setAgenda rest).setInst n (Engine.resetStarted base (w.getLsbD 1))) := by
  have hdecode : decode (.mmio n (packTx true 0) 4 w) = .ok (.wrCtrl n w) := decode_packTx true w rfl
  have haccept : acceptStart n { Engine.reset base with irqEn := w.getLsbD 1 } (s.setAgenda rest) =
      (s.setAgenda rest).setInst n (Engine.resetStarted base (w.getLsbD 1)) := acceptStart_of_empty rfl rfl
  have hrun : step s = exec (.wrCtrl n w) (s.setAgenda rest) := (step_of_agenda hagenda).trans
    (transactMove_of_ok (s := s.setAgenda rest) (t := { write := true, addr := base, size := 4, wdata := w }) hroute
      hdecode)
  rw [hrun, ← haccept]
  exact execWrCtrl_start (s := s.setAgenda rest) he hw rfl

/-- Its first engine step: both references are absent (R161, R210). -/
theorem engineMove_ends_resetStarted {s : State} {n : Nat} {base : Word} {irqEn : Bool}
    (he : s.insts[n]? = some (Engine.resetStarted base irqEn)) :
    engineMove n s =
      .next (s.setInst n { Engine.reset base with irqEn := irqEn, done := true, code := .nullPointer }) := by
  have hjob : (Engine.resetStarted base irqEn).jobInstr n = Sys2Proof.jobInstr n .rggb .alpha8 :=
    decodeJob_packCfg n .alpha8 .rggb
  rw [engineMove_some he, hjob, exec_validate _ _ he rfl, validateStep_of_null _ (.inl rfl),
    complete_of_clean _ rfl rfl]
  rfl

/-- Two steps of the machine behind the host's interface. -/
theorem run_two {s t u : State} (hst : step s = .next t) (htu : step t = .next u) :
    Host.Core.run Sys2Proof.core 2 s = .next u := by
  simp [Host.Core.run, Sys2Proof.core, hst, htu]

/-- Settles O56: the START finds nothing to overlap, and the engine step after it, which in the launch state the engine
takes by itself, finds both references absent. -/
theorem startAfterResetEndsWithNullPointer : Obligations.StartAfterResetEndsWithNullPointer := by
  unfold Obligations.StartAfterResetEndsWithNullPointer
  refine ⟨fun s n base w rest he hroute hw hagenda => ?_, fun w hw => ?_⟩
  · refine ⟨_, _, run_two (step_starts_reset he hroute hw hagenda) ?_, rfl, rfl, Engine.statusWord_eq _, rfl⟩
    rw [step_of_agenda (mv := .engine n) (rest := rest) rfl, performMove,
      engineMove_ends_resetStarted (getElem?_set_of_some _ he)]
    simp only [State.setInst, State.setAgenda, List.set_set]
  · have hstart := step_starts_reset (s := { State.reset with
      agenda := [.host (.transact { write := true, addr := 0, size := 4, wdata := w })] }) (n := 0) rfl rfl hw rfl
    refine ⟨{ State.reset with insts := [_] },
      { Engine.reset 0 with irqEn := w.getLsbD 1, done := true, code := .nullPointer }, run_two hstart ?_, rfl,
      Engine.statusWord_eq _, rfl, rfl, rfl⟩
    rw [step_of_no_agenda rfl, idleMove_of_first (n := 0) (e := Engine.resetStarted 0 (w.getLsbD 1)) rfl rfl (by simp)]
    exact engineMove_ends_resetStarted rfl

end Sys2Proof.Machine

/-! ## Register words and ignored writes

O6, O11 and O12: the words in which the registers read (R181 to R199), the W1C write of STATUS (R184) and the writes
that have no effect (R186, R200). -/

namespace Sys2Proof.Machine

/-- CTRL as a number: IRQ_EN at bit 1, and START reads 0 (R24, R181). -/
theorem Engine.ctrlWord_eq (e : Engine) : e.ctrlWord = if e.irqEn = true then 0x00000002 else 0x00000000 := by
  unfold Engine.ctrlWord
  cases e.irqEn <;> rfl

/-- CFG as a number: the two fields share no bit, so joining them is adding them (R81, R187). -/
theorem packCfg_eq_ofNat (c : BitVec 5) (p : Pattern) :
    packCfg c p = BitVec.ofNat 32 (c.toNat * 256 + p.code.toNat) := by
  have hp : p.code.toNat < 2 ^ 8 := p.code.isLt.trans (by decide)
  have hc : c.toNat < 2 ^ 5 := c.isLt
  have hsum : c.toNat * 256 + p.code.toNat = c.toNat <<< 8 ||| p.code.toNat := by
    rw [← Nat.shiftLeft_add_eq_or_of_lt hp, Nat.shiftLeft_eq]
  apply BitVec.eq_of_toNat_eq
  rw [hsum]
  simp only [packCfg, BitVec.toNat_or, BitVec.toNat_shiftLeft, BitVec.toNat_setWidth, BitVec.toNat_ofNat,
    Nat.or_mod_two_pow, Nat.mod_eq_of_lt (show c.toNat < 2 ^ 32 by omega)]

/-- A write of STATUS, whatever its data (R184). -/
theorem execWrStatus_some {s : State} {n : Nat} {e : Engine} (w : Word) (he : s.insts[n]? = some e) :
    execWrStatus n w s = .next (s.setInst n { e with done := e.done && !w.getLsbD 1 }) := by
  cases hw : w.getLsbD 1 with
  | true => rw [execWrStatus_doneCleared he hw, Bool.not_true, Bool.and_false]; rfl
  | false => rw [execWrStatus, writeReg_some _ he, hw, Bool.not_false, Bool.and_true]; rfl

/-- A write that leaves the instance as it is leaves the whole state (R186, R200). -/
theorem writeReg_ignored_some {s : State} {n : Nat} {e : Engine} (he : s.insts[n]? = some e) :
    writeReg n (fun e => e) s = .next s := by
  rw [writeReg_some _ he, State.setInst_self s n e he]

/-- Settles O6: every read is `readReg` of its register's word, of which CTRL's and CFG's are made of fields. -/
theorem registerReadsReturnTheirWords : Obligations.RegisterReadsReturnTheirWords := by
  unfold Obligations.RegisterReadsReturnTheirWords
  intro s n e he
  have hread (word : Engine → Word) := readReg_some word he
  refine ⟨?_, ?_, hread _, hread _, hread _, hread _, hread _, fun _ => hread _⟩
  · rw [← e.ctrlWord_eq]
    exact hread _
  · rw [← packCfg_eq_ofNat]
    exact hread _

/-- Settles O11: the write clears DONE alone, or stores the instance as it is. -/
theorem writeStatusClearsDone : Obligations.WriteStatusClearsDone :=
  fun _ _ _ w he => execWrStatus_some w he

/-- Settles O12: both writes update the instance to itself. -/
theorem ignoredWritesChangeNothing : Obligations.IgnoredWritesChangeNothing :=
  fun _ _ _ _ _ he => ⟨writeReg_ignored_some he, writeReg_ignored_some he⟩

end Sys2Proof.Machine

/-! ## Idle and FAULTED instances

O18: an instance in phase IDLE or FAULTED takes no step (R214, R225). -/

namespace Sys2Proof.Machine

/-- An idle instance does nothing (R225); `exec_faulted` says the same of a FAULTED one. -/
theorem exec_idle {s : State} {n : Nat} {e : Engine} (fmt : Format) (pat : Pattern) (he : s.insts[n]? = some e)
    (hp : e.phase = .idle) : exec (jobInstr n pat fmt) s = .next s := by
  rw [exec_jobInstr, driverStep_some _ _ he, hp]

/-- Nor does a job of a reserved format move an idle instance (R225). -/
theorem exec_unsupported_idle {s : State} {n : Nat} {e : Engine} (c : BitVec 5) (pat : Pattern)
    (he : s.insts[n]? = some e) (hp : e.phase = .idle) : exec (.dmsUnsupported n c pat) s = .next s := by
  rw [exec_unsupported c pat he, hp]

/-- Nor a FAULTED one (R214). -/
theorem exec_unsupported_faulted {s : State} {n : Nat} {e : Engine} (c : BitVec 5) (pat : Pattern)
    (he : s.insts[n]? = some e) (hp : e.phase = .faulted) : exec (.dmsUnsupported n c pat) s = .next s := by
  rw [exec_unsupported c pat he, hp]

/-- Settles O18, by the two phases: in each, a job operation of a supported format and one of a reserved format answer
the state itself. -/
theorem idleAndFaultedInstancesTakeNoStep : Obligations.IdleAndFaultedInstancesTakeNoStep := by
  unfold Obligations.IdleAndFaultedInstancesTakeNoStep
  intro s n e p he hphase
  rcases hphase with hidle | hfaulted
  · exact ⟨fun fmt => exec_idle fmt p he hidle, fun c => exec_unsupported_idle c p he hidle⟩
  · exact ⟨fun fmt => exec_faulted fmt p he hfaulted, fun c => exec_unsupported_faulted c p he hfaulted⟩

end Sys2Proof.Machine

/-! ## Reset of an instance, and configuration writes while BUSY

O9 and O54: a BUSY instance ignores its configuration writes (R42, R238); a reset gives an instance its reset values and
leaves the DstFP of a job in flight free (R230, R231). -/

namespace Sys2Proof.Machine

/-- Settles O9: all six writes are `writeConfig`, which a BUSY instance ignores. -/
theorem configWritesIgnoredWhileBusy : Obligations.ConfigWritesIgnoredWhileBusy := by
  unfold Obligations.ConfigWritesIgnoredWhileBusy
  intro s n e w he hb
  have hignored (upd : Engine → Engine) := writeConfig_busy upd he hb
  exact ⟨hignored _, hignored _, hignored _, hignored _, hignored _, hignored _⟩

/-- Without a job in flight a reset touches the instance alone (R230). -/
theorem resetInst_idle {e : Engine} (n : Nat) (s : State) (hb : e.busy = false) :
    resetInst n e s = s.setInst n (Engine.reset e.base) := by
  simp only [resetInst, hb, Bool.false_eq_true, if_false]

/-- With a job in flight it also draws every byte of the job's DstFP (R231). -/
theorem resetInst_busy {e : Engine} (n : Nat) (s : State) (hb : e.busy = true) :
    resetInst n e s =
      ((s.setInst n (Engine.reset e.base)).setMem
        (drawBytes (fun _ => true) e.dstAddr.toNat s.draws s.mem (e.footprint s.params).dstSize)).takeDraws
          (e.footprint s.params).dstSize := by
  simp only [resetInst, hb, if_true]
  rfl

/-- DstFP as a range of addresses (R58). -/
theorem Engine.inDst_footprint_iff (p : Params) (e : Engine) (a : Nat) :
    (e.footprint p).inDst a = true ↔ e.dstAddr.toNat ≤ a ∧ a < e.dstAddr.toNat + (e.footprint p).dstSize :=
  decide_eq_true_iff

/-- What each byte reads once all of a job's DstFP is drawn: the draw of its place within DstFP and the data space, and
what it was elsewhere. -/
theorem read_drawBytes_dst (p : Params) (e : Engine) {m : Memory} (d a : Nat) (h : m.wf) :
    (drawBytes (fun _ => true) e.dstAddr.toNat d m (e.footprint p).dstSize).read a =
      if (e.footprint p).inDst a = true ∧ a < 2 ^ 32 then Config.draw8 (d + (a - e.dstAddr.toNat)) else m.read a := by
  rw [read_drawBytes _ _ _ _ _ _ h]
  refine if_congr ?_ rfl rfl
  rw [Engine.inDst_footprint_iff, and_assoc, eq_self, true_and]

/-- A pending reset of a present instance is the next step (R230). -/
theorem step_reset {s : State} {n : Nat} {e : Engine} {rest : List Move} (hagenda : s.agenda = .reset n :: rest)
    (he : s.insts[n]? = some e) : step s = .next (resetInst n e (s.setAgenda rest)) :=
  (step_of_agenda hagenda).trans (withInst_some (s := s.setAgenda rest) _ he)

/-- Settles O54, by whether a job is in flight: without one the reset sets the instance alone, with one it also draws the
bytes of DstFP. -/
theorem resetReturnsAnInstanceToItsResetValues : Obligations.ResetReturnsAnInstanceToItsResetValues := by
  unfold Obligations.ResetReturnsAnInstanceToItsResetValues
  intro s n e rest hagenda he hm
  refine ⟨fun hidle => ?_, fun hbusy =>
    ⟨_, ?_, drawBytes_wf _ _ _ _ _ hm, fun a => read_drawBytes_dst s.params e s.draws a hm⟩⟩
  · rw [step_reset hagenda he, resetInst_idle _ _ hidle]
    rfl
  · rw [step_reset hagenda he, resetInst_busy _ _ hbusy]
    rfl

end Sys2Proof.Machine
